-- ==== Sys2Proof/Word.lean ====
section
/-!
DEFINITION. The words that travel on the block's interfaces (spec/30_encoding.md, R100 to R106).

The block decodes no instruction word. What it decodes is a format tuple: the format (which carries
the direction of the transaction, R100) and the fields of that format. `Request` is that tuple, one
constructor per format of R100 and, for CFG and CMD, per operation of the format's enumeration.
-/

namespace Sys2Proof

/-- One byte: every memory and port transaction moves exactly one (R71, R73). -/
abbrev Byte := BitVec 8

/-- A 16-bit memory address (R9, ADDR_WIDTH; R60). -/
abbrev Addr := BitVec 16

/-- An 8-bit port id (R60; PORT_WIDTH of R10, fixed at 8). -/
abbrev PortId := BitVec 8

/-- The ten control events, a closed enumeration without numeric codes (R104). -/
inductive Event where
  | coin | tilt
  | p1Start | p1Shoot | p1Left | p1Right
  | p2Start | p2Shoot | p2Left | p2Right
  deriving DecidableEq, Repr

/-- The operations of the CMD format: FRAME (R100, R106) and the two derived readers (R121), which the
opcode table lists under the same format. -/
inductive Command where
  | lives | bonus | frame
  deriving DecidableEq, Repr

/-- One operation as its issuer presents it: a format of R100 with its fields. -/
inductive Request where
  /-- MEM_RD: `read(address)`. -/
  | memRd (addr : Addr)
  /-- MEM_WR: `write(address, byte)`. -/
  | memWr (addr : Addr) (data : Byte)
  /-- IO_IN: `read_port(id)`. -/
  | ioIn (port : PortId)
  /-- IO_OUT: `write_port(id, value)`. -/
  | ioOut (port : PortId) (data : Byte)
  /-- EVT: `apply_event(event, pressed)`. -/
  | evt (event : Event) (pressed : Bool)
  /-- CFG with op LIVES: `with_lives(n)`. -/
  | cfgLives (n : Nat)
  /-- CFG with op COININFO: `with_coin_info(b)`. -/
  | cfgCoininfo (b : Bool)
  /-- CFG with op BONUS: `with_lower_bonus_life(b)`. -/
  | cfgBonus (b : Bool)
  /-- CMD. -/
  | cmd (op : Command)
  deriving DecidableEq, Repr

end Sys2Proof
end

