-- ==== Sys2Proof/Machine/Flags.lean ====
section
/-!
DEFINITION. The block has no condition flags and no operation has a flag side effect (R36). Its one-bit
state is the bits of the port bytes P1 and P2; this file reads and writes one bit of a byte.
-/

namespace Sys2Proof.Machine

/-- The byte `b` with bit `i` made `v` and the other seven bits kept (`P1[i] <- bit`, R210). -/
def writeBit (b : Byte) (i : Fin 8) (v : Bool) : Byte :=
  if v then b ||| (1#8 <<< i.val) else b &&& ~~~(1#8 <<< i.val)

/-- Bit `i` of the byte `b` (R11: bit 0 is the least significant). -/
def readBit (b : Byte) (i : Fin 8) : Bool := b.getLsbD i.val

end Sys2Proof.Machine
end

