-- ==== Sys2Proof/Config.lean ====
section
/-!
DEFINITION. What is fixed for a session: the constants the source fixes (R9), the bank map (R61), and the
record of the parameters it leaves open (R10). The default values of the parameters and the constraint
on them are in Sys2Proof/Machine/Parameters.lean. `State` carries the record of its session, so that a
claim about every state is a claim about every value of the parameters.
-/

namespace Sys2Proof

/-! ### The bank map (R9, R61) -/

/-- The four banks: a closed set that no operation extends (R61, R162). -/
inductive Bank where
  | rom | ram | videoFrame | mirrorGuard
  deriving DecidableEq, Repr

/-- The first address of a bank (R61). -/
def Bank.base : Bank → Nat
  | .rom => 0x0000
  | .ram => 0x2000
  | .videoFrame => 0x2400
  | .mirrorGuard => 0x4000

/-- The number of addresses of a bank (R61). -/
def Bank.size : Bank → Nat
  | .rom => 0x2000
  | .ram => 0x0400
  | .videoFrame => 0x1C00
  | .mirrorGuard => 0xC000

/-- The write-ignore window is [0x4000, 0x4200) (R67). -/
def windowBase : Nat := 0x4000

/-- The first address past the write-ignore window (R67). -/
def windowEnd : Nat := 0x4200

/-- The first address that no storage answers: no state element stands at or above it (R24). -/
def storageEnd : Nat := 0x4000

/-- A ROM segment is 2048 bytes; four of them fill the ROM bank (R9, R21). -/
def romSegmentSize : Nat := 2048

/-! ### The parameters the source leaves open (R10) -/

/-- Which of the two port bytes an event writes. -/
inductive InputPort where
  | port1 | port2
  deriving DecidableEq, Repr

/-- A position in the port bytes: `(port, bit)` (R29). -/
structure PortBit where
  port : InputPort
  bit : Fin 8
  deriving DecidableEq, Repr

/-- EVENT_MAP: the position of each of the ten events (R29). The polarity is no entry of its own: Coin is
inverted and every other event is not (R210). -/
structure EventMap where
  coin : PortBit
  tilt : PortBit
  p1Start : PortBit
  p1Shoot : PortBit
  p1Left : PortBit
  p1Right : PortBit
  p2Start : PortBit
  p2Shoot : PortBit
  p2Left : PortBit
  p2Right : PortBit
  deriving DecidableEq, Repr

/-- The position `EVENT_MAP(e)`. -/
def EventMap.get (m : EventMap) : Event → PortBit
  | .coin => m.coin
  | .tilt => m.tilt
  | .p1Start => m.p1Start
  | .p1Shoot => m.p1Shoot
  | .p1Left => m.p1Left
  | .p1Right => m.p1Right
  | .p2Start => m.p2Start
  | .p2Shoot => m.p2Shoot
  | .p2Left => m.p2Left
  | .p2Right => m.p2Right

/-- The named parameters of R10 that are values. (ROM_IMAGE and VRAM_INIT are arguments of
`State.construct`; the engine is an argument of Machine/Engine.lean and, seen from the block, the list of
moves in `State.inputs`.) FULL_FRAME_BUDGET has no field: it is twice HALF_FRAME_BUDGET by definition
(R241, `Params.fullFrameBudget`). P2_LIVES_LSB is below 7 because the field has two bits. -/
structure Params where
  outShiftOffset : PortId
  outSoundA : PortId
  outShiftData : PortId
  outSoundB : PortId
  outWatchdog : PortId
  eventMap : EventMap
  p2LivesLsb : Fin 7
  p2BonusBit : Fin 8
  p2CoininfoBit : Fin 8
  port1Reset : Byte
  port2Base : Byte
  srResetValue : BitVec 16
  srResetOffset : BitVec 3
  cycReset : Nat
  halfFrameBudget : Nat
  deriving DecidableEq, Repr

/-- FULL_FRAME_BUDGET, exactly twice the half budget (R241). -/
def Params.fullFrameBudget (p : Params) : Nat := 2 * p.halfFrameBudget

end Sys2Proof
end

