-- ==== Sys2Proof/Machine/Parameters.lean ====
section
/-!
DEFINITION. The default value of every parameter of R10, and the constraint a parameter record must meet.
The defaults are no statement of the source: notes/assumptions/1.md to 8.md say where each comes from.
-/

namespace Sys2Proof

/-- The default EVENT_MAP (R29). Coin's entry is the source's; PRESUMED for the bit numbers of the others
(log 2). -/
def EventMap.default : EventMap where
  coin := ⟨.port1, 0⟩
  tilt := ⟨.port2, 2⟩
  p1Start := ⟨.port1, 2⟩
  p1Shoot := ⟨.port1, 4⟩
  p1Left := ⟨.port1, 5⟩
  p1Right := ⟨.port1, 6⟩
  p2Start := ⟨.port1, 1⟩
  p2Shoot := ⟨.port2, 4⟩
  p2Left := ⟨.port2, 5⟩
  p2Right := ⟨.port2, 6⟩

/-- The defaults of R10: output ids (log 1), event map (log 2), fields of P2 (log 3), reset bytes of the
ports (log 4, 5), shift register (log 6), cycle counter (log 7), half-frame budget (log 8). -/
def Params.default : Params where
  outShiftOffset := 2
  outSoundA := 3
  outShiftData := 4
  outSoundB := 5
  outWatchdog := 6
  eventMap := EventMap.default
  p2LivesLsb := 0
  p2BonusBit := 3
  p2CoininfoBit := 7
  port1Reset := 0x01
  port2Base := 0x00
  srResetValue := 0x0000
  srResetOffset := 0
  cycReset := 0
  halfFrameBudget := 16666

/-- The five decoded output ids, in the order R200 tests them. -/
def Params.outIds (p : Params) : List PortId :=
  [p.outShiftOffset, p.outShiftData, p.outSoundA, p.outSoundB, p.outWatchdog]

/-- All ten events, for tables and checks over them. -/
def Event.all : List Event :=
  [.coin, .tilt, .p1Start, .p1Shoot, .p1Left, .p1Right, .p2Start, .p2Shoot, .p2Left, .p2Right]

/-- The four bits of P2 that the configuration fields cover (R28): LIVES twice, BONUS, COININFO. -/
def Params.configBits (p : Params) : List (Fin 8) :=
  [p.p2LivesLsb.castSucc, p.p2LivesLsb.succ, p.p2BonusBit, p.p2CoininfoBit]

/-- The constraint column of R10, and the ports R29 and D3 keep from the source. -/
abbrev Params.wf (p : Params) : Prop :=
  -- the five OUT ids are pairwise distinct
  p.outIds.Nodup ∧
  -- EVENT_MAP is injective, Coin is (port1, bit 0), and the ports the source names are kept
  (Event.all.map p.eventMap.get).Nodup ∧
  p.eventMap.coin = ⟨.port1, 0⟩ ∧
  p.eventMap.p1Start.port = .port1 ∧ p.eventMap.p1Shoot.port = .port1 ∧
  p.eventMap.p1Left.port = .port1 ∧ p.eventMap.p1Right.port = .port1 ∧
  p.eventMap.tilt.port = .port2 ∧ p.eventMap.p2Shoot.port = .port2 ∧
  p.eventMap.p2Left.port = .port2 ∧ p.eventMap.p2Right.port = .port2 ∧
  -- the configuration fields overlap neither each other nor an event bit of port2
  p.configBits.Nodup ∧
  (∀ i ∈ p.configBits, (⟨.port2, i⟩ : PortBit) ∉ Event.all.map p.eventMap.get) ∧
  -- PORT1_RESET: bit 0 set, every other event-mapped bit clear
  p.port1Reset.getLsbD 0 = true ∧
  (∀ e ∈ Event.all, e ≠ .coin → (p.eventMap.get e).port = .port1 →
    p.port1Reset.getLsbD (p.eventMap.get e).bit = false) ∧
  -- PORT2_BASE: every event-mapped bit clear
  (∀ e ∈ Event.all, (p.eventMap.get e).port = .port2 →
    p.port2Base.getLsbD (p.eventMap.get e).bit = false) ∧
  -- HALF_FRAME_BUDGET is positive
  0 < p.halfFrameBudget

end Sys2Proof
end

