-- ==== Sys2Proof/Machine/Operands.lean ====
section
/-!
DEFINITION. Operand assembly (R107) and the number a row's free bits stand for (R101, R108).
-/

namespace Sys2Proof.Machine

/-- The value of a row's selecting field: the row's fixed bits with its free bits below them. The free bits
are clear in `fixed`, so adding is the same as joining (R101). -/
def fill {w n : Nat} (fixed : BitVec w) (free : BitVec n) : BitVec w := fixed + free.setWidth w

/-- Array index of an address inside its bank: `addr − base` (R66, R107). -/
def bankIndex (b : Bank) (addr : Addr) : Nat := addr.toNat - b.base

/-- OUT to the shift-offset port uses `data[2:0]` and ignores bits 7:3 (R107, R172). -/
def offsetOperand (data : Byte) : BitVec 3 := data.setWidth 3

/-- OUT to the shift-data port: `b ++ value[15:8]` (R107, R170). -/
def pushed (value : BitVec 16) (b : Byte) : BitVec 16 := b ++ value.extractLsb' 8 8

/-- IN 3: `(value >> (8 − offset))[7:0]` (R107, R171). -/
def window (value : BitVec 16) (offset : BitVec 3) : Byte := (value >>> (8 - offset.toNat)).setWidth 8

/-- EVT: the new bit is `pressed`, for Coin `not pressed` (R107, R210). -/
def eventLevel (e : Event) (pressed : Bool) : Bool :=
  match e with
  | .coin => !pressed
  | .tilt | .p1Start | .p1Shoot | .p1Left | .p1Right | .p2Start | .p2Shoot | .p2Left | .p2Right => pressed

/-- CFG.LIVES: 0 if n ≤ 3, n − 3 if n is 4 or 5, 3 if n ≥ 6 (R107, R230). -/
def livesOperand (n : Nat) : BitVec 2 :=
  if n ≤ 3 then 0 else if n ≤ 5 then BitVec.ofNat 2 (n - 3) else 3

end Sys2Proof.Machine
end

