-- ==== Sys2Proof/Syntax.lean ====
section
/-!
DEFINITION. The instructions: one constructor per row of spec/opcode_table.json (R108).

A row's argument is what its encoding leaves free. For a MEM_RD or MEM_WR row that is the string of `a`
bits of the pattern (MEMRD.RAM, `001000aaaaaaaaaa`, has ten), so that an address outside the row's region
cannot be written down; for an undecoded port the string of `p` bits; then the separate operands (`data`,
`pressed`, `n`, `b`) of the row. The three SR rows are the micro-operations, which have no encoding (R108).
-/

namespace Sys2Proof

/-- An instruction of the block: one operation of R7. -/
inductive Instr where
  -- MEM_RD
  | memrdRom (a : BitVec 13)
  | memrdRam (a : BitVec 10)
  | memrdVramA (a : BitVec 10)
  | memrdVramB (a : BitVec 11)
  | memrdVramC (a : BitVec 12)
  | memrdMirrorA (a : BitVec 14)
  | memrdMirrorB (a : BitVec 15)
  -- MEM_WR
  | memwrRom (a : BitVec 13) (data : Byte)
  | memwrRam (a : BitVec 10) (data : Byte)
  | memwrVramA (a : BitVec 10) (data : Byte)
  | memwrVramB (a : BitVec 11) (data : Byte)
  | memwrVramC (a : BitVec 12) (data : Byte)
  | memwrWindow (a : BitVec 9) (data : Byte)
  | memwrMirrorA (a : BitVec 9) (data : Byte)
  | memwrMirrorB (a : BitVec 10) (data : Byte)
  | memwrMirrorC (a : BitVec 11) (data : Byte)
  | memwrMirrorD (a : BitVec 12) (data : Byte)
  | memwrMirrorE (a : BitVec 13) (data : Byte)
  | memwrMirrorF (a : BitVec 15) (data : Byte)
  -- IO_IN
  | inP1
  | inP2
  | inShift
  | inUnknownA
  | inUnknownB (p : BitVec 2)
  | inUnknownC (p : BitVec 3)
  | inUnknownD (p : BitVec 4)
  | inUnknownE (p : BitVec 5)
  | inUnknownF (p : BitVec 6)
  | inUnknownG (p : BitVec 7)
  -- IO_OUT
  | outShiftOffset (data : Byte)
  | outSoundA (data : Byte)
  | outShiftData (data : Byte)
  | outSoundB (data : Byte)
  | outWatchdog (data : Byte)
  | outUnknownA (p : BitVec 1) (data : Byte)
  /-- Row `00000111` of the table, which is computed for the default output ids. Under other ids some of
  the ids 2 to 6 are undecoded too and the table has no row for them; this row takes them (log 9), so it
  carries the port id. -/
  | outUnknownB (port : PortId) (data : Byte)
  | outUnknownC (p : BitVec 3) (data : Byte)
  | outUnknownD (p : BitVec 4) (data : Byte)
  | outUnknownE (p : BitVec 5) (data : Byte)
  | outUnknownF (p : BitVec 6) (data : Byte)
  | outUnknownG (p : BitVec 7) (data : Byte)
  -- EVT
  | evtCoin (pressed : Bool)
  | evtTilt (pressed : Bool)
  | evtP1Start (pressed : Bool)
  | evtP1Shoot (pressed : Bool)
  | evtP1Left (pressed : Bool)
  | evtP1Right (pressed : Bool)
  | evtP2Start (pressed : Bool)
  | evtP2Shoot (pressed : Bool)
  | evtP2Left (pressed : Bool)
  | evtP2Right (pressed : Bool)
  -- CFG
  | cfgLives (n : Nat)
  | cfgCoininfo (b : Bool)
  | cfgBonus (b : Bool)
  -- CMD
  | livesQ
  | bonusQ
  | frame
  -- MICRO
  | srPush (b : Byte)
  | srRead
  | srSetOffset (b : Byte)
  deriving DecidableEq, Repr

end Sys2Proof
end

