-- ==== Sys2Proof/WellFormed.lean ====
section
/-!
DEFINITION. Which instructions are well formed under a session's parameters.

The types of the constructors already keep an address inside its row's region and a datum inside its width.
What is left to check is the OUT rows of undecoded ports: the id must be none of the five decoded ids
(R103), and the row that carries a whole id must stand for an id between 2 and 7.
-/

namespace Sys2Proof

/-- The port id is none of the five decoded output ids (R103, R205). -/
abbrev Params.undecodedOut (p : Params) (port : PortId) : Prop := port ∉ p.outIds

/-- Well-formedness of an instruction: decoding its encoding can give it back. -/
def Instr.wf (p : Params) : Instr → Bool
  | .outUnknownA q _ => decide (p.undecodedOut (Machine.fill 0x00#8 q))
  | .outUnknownB port _ => decide (2 ≤ port.toNat ∧ port.toNat ≤ 7 ∧ p.undecodedOut port)
  | .outUnknownC q _ => decide (p.undecodedOut (Machine.fill 0x08#8 q))
  | .outUnknownD q _ => decide (p.undecodedOut (Machine.fill 0x10#8 q))
  | .outUnknownE q _ => decide (p.undecodedOut (Machine.fill 0x20#8 q))
  | .outUnknownF q _ => decide (p.undecodedOut (Machine.fill 0x40#8 q))
  | .outUnknownG q _ => decide (p.undecodedOut (Machine.fill 0x80#8 q))
  | .memrdRom _ | .memrdRam _ | .memrdVramA _ | .memrdVramB _ | .memrdVramC _ | .memrdMirrorA _
  | .memrdMirrorB _ | .memwrRom _ _ | .memwrRam _ _ | .memwrVramA _ _ | .memwrVramB _ _ | .memwrVramC _ _
  | .memwrWindow _ _ | .memwrMirrorA _ _ | .memwrMirrorB _ _ | .memwrMirrorC _ _ | .memwrMirrorD _ _
  | .memwrMirrorE _ _ | .memwrMirrorF _ _ | .inP1 | .inP2 | .inShift | .inUnknownA | .inUnknownB _
  | .inUnknownC _ | .inUnknownD _ | .inUnknownE _ | .inUnknownF _ | .inUnknownG _ | .outShiftOffset _
  | .outSoundA _ | .outShiftData _ | .outSoundB _ | .outWatchdog _ | .evtCoin _ | .evtTilt _ | .evtP1Start _
  | .evtP1Shoot _ | .evtP1Left _ | .evtP1Right _ | .evtP2Start _ | .evtP2Shoot _ | .evtP2Left _
  | .evtP2Right _ | .cfgLives _ | .cfgCoininfo _ | .cfgBonus _ | .livesQ | .bonusQ | .frame | .srPush _
  | .srRead | .srSetOffset _ => true

end Sys2Proof
end

