-- ==== Sys2Proof/Decode.lean ====
section
/-!
DEFINITION. The decoder and the encoder.

"A decoder for a format is: find the row of that format whose `(value & mask) == match`" (R108). The rows of
a format stand below as a list, each with the mask and match of spec/opcode_table.json and what it makes of
the selecting field; EVT, CFG and CMD are selected by their enumeration tag. The four selecting fields are
covered by their rows (R109, R142), so `DecodeError` is never met; Laws/Decode.lean proves it.
-/

namespace Sys2Proof

/-- One row of the opcode table over a selecting field of `w` bits. -/
structure Row (w : Nat) (α : Type) where
  mask : BitVec w
  matchBits : BitVec w
  make : BitVec w → α

/-- The row's test on the selecting field: `(value & mask) == match` (R108). -/
def Row.accepts {w : Nat} {α : Type} (r : Row w α) (value : BitVec w) : Bool :=
  value &&& r.mask == r.matchBits

/-- What the first row that accepts the field makes of it. -/
def selectRow {w : Nat} {α : Type} : List (Row w α) → BitVec w → Option α
  | [], _ => none
  | r :: rows, value => if r.accepts value then some (r.make value) else selectRow rows value

/-- The MEM_RD rows (R101). -/
def memRdRows : List (Row 16 Instr) :=
  [⟨0xE000, 0x0000, fun v => .memrdRom (v.setWidth 13)⟩,
   ⟨0xFC00, 0x2000, fun v => .memrdRam (v.setWidth 10)⟩,
   ⟨0xFC00, 0x2400, fun v => .memrdVramA (v.setWidth 10)⟩,
   ⟨0xF800, 0x2800, fun v => .memrdVramB (v.setWidth 11)⟩,
   ⟨0xF000, 0x3000, fun v => .memrdVramC (v.setWidth 12)⟩,
   ⟨0xC000, 0x4000, fun v => .memrdMirrorA (v.setWidth 14)⟩,
   ⟨0x8000, 0x8000, fun v => .memrdMirrorB (v.setWidth 15)⟩]

/-- The MEM_WR rows (R101). -/
def memWrRows : List (Row 16 (Byte → Instr)) :=
  [⟨0xE000, 0x0000, fun v => .memwrRom (v.setWidth 13)⟩,
   ⟨0xFC00, 0x2000, fun v => .memwrRam (v.setWidth 10)⟩,
   ⟨0xFC00, 0x2400, fun v => .memwrVramA (v.setWidth 10)⟩,
   ⟨0xF800, 0x2800, fun v => .memwrVramB (v.setWidth 11)⟩,
   ⟨0xF000, 0x3000, fun v => .memwrVramC (v.setWidth 12)⟩,
   ⟨0xFE00, 0x4000, fun v => .memwrWindow (v.setWidth 9)⟩,
   ⟨0xFE00, 0x4200, fun v => .memwrMirrorA (v.setWidth 9)⟩,
   ⟨0xFC00, 0x4400, fun v => .memwrMirrorB (v.setWidth 10)⟩,
   ⟨0xF800, 0x4800, fun v => .memwrMirrorC (v.setWidth 11)⟩,
   ⟨0xF000, 0x5000, fun v => .memwrMirrorD (v.setWidth 12)⟩,
   ⟨0xE000, 0x6000, fun v => .memwrMirrorE (v.setWidth 13)⟩,
   ⟨0x8000, 0x8000, fun v => .memwrMirrorF (v.setWidth 15)⟩]

/-- The IO_IN rows (R102): exact comparison for the ids 1, 2 and 3, bit patterns for the rest. -/
def ioInRows : List (Row 8 Instr) :=
  [⟨0xFF, 0x01, fun _ => .inP1⟩,
   ⟨0xFF, 0x02, fun _ => .inP2⟩,
   ⟨0xFF, 0x03, fun _ => .inShift⟩,
   ⟨0xFF, 0x00, fun _ => .inUnknownA⟩,
   ⟨0xFC, 0x04, fun v => .inUnknownB (v.setWidth 2)⟩,
   ⟨0xF8, 0x08, fun v => .inUnknownC (v.setWidth 3)⟩,
   ⟨0xF0, 0x10, fun v => .inUnknownD (v.setWidth 4)⟩,
   ⟨0xE0, 0x20, fun v => .inUnknownE (v.setWidth 5)⟩,
   ⟨0xC0, 0x40, fun v => .inUnknownF (v.setWidth 6)⟩,
   ⟨0x80, 0x80, fun v => .inUnknownG (v.setWidth 7)⟩]

/-- The IO_OUT rows of the five decoded ids, compared exactly, in the order of R200 (R103). -/
def ioOutIdRows (p : Params) : List (Row 8 (Byte → Instr)) :=
  [⟨0xFF, p.outShiftOffset, fun _ => .outShiftOffset⟩,
   ⟨0xFF, p.outShiftData, fun _ => .outShiftData⟩,
   ⟨0xFF, p.outSoundA, fun _ => .outSoundA⟩,
   ⟨0xFF, p.outSoundB, fun _ => .outSoundB⟩,
   ⟨0xFF, p.outWatchdog, fun _ => .outWatchdog⟩]

/-- The IO_OUT rows of the undecoded ids. The last one is not in the table: it takes the ids 2 to 6 that a
parameter set other than the default leaves undecoded (log 9). -/
def ioOutUnknownRows : List (Row 8 (Byte → Instr)) :=
  [⟨0xFE, 0x00, fun v => .outUnknownA (v.setWidth 1)⟩,
   ⟨0xFF, 0x07, fun v => .outUnknownB v⟩,
   ⟨0xF8, 0x08, fun v => .outUnknownC (v.setWidth 3)⟩,
   ⟨0xF0, 0x10, fun v => .outUnknownD (v.setWidth 4)⟩,
   ⟨0xE0, 0x20, fun v => .outUnknownE (v.setWidth 5)⟩,
   ⟨0xC0, 0x40, fun v => .outUnknownF (v.setWidth 6)⟩,
   ⟨0x80, 0x80, fun v => .outUnknownG (v.setWidth 7)⟩,
   ⟨0xF8, 0x00, fun v => .outUnknownB v⟩]

/-- The IO_OUT rows: the decoded ids first, then the patterns (R103, R108). -/
def ioOutRows (p : Params) : List (Row 8 (Byte → Instr)) := ioOutIdRows p ++ ioOutUnknownRows

/-- The EVT rows, selected by name (R104). -/
def decodeEvent (pressed : Bool) : Event → Instr
  | .coin => .evtCoin pressed
  | .tilt => .evtTilt pressed
  | .p1Start => .evtP1Start pressed
  | .p1Shoot => .evtP1Shoot pressed
  | .p1Left => .evtP1Left pressed
  | .p1Right => .evtP1Right pressed
  | .p2Start => .evtP2Start pressed
  | .p2Shoot => .evtP2Shoot pressed
  | .p2Left => .evtP2Left pressed
  | .p2Right => .evtP2Right pressed

/-- The CMD rows, selected by name (R106, R121). -/
def decodeCommand : Command → Instr
  | .lives => .livesQ
  | .bonus => .bonusQ
  | .frame => .frame

/-- Why a request is no instruction: no row of its format accepts the selecting field. -/
inductive DecodeError where
  | noMemRdRow (addr : Addr)
  | noMemWrRow (addr : Addr)
  | noIoInRow (port : PortId)
  | noIoOutRow (port : PortId)
  deriving DecidableEq, Repr

/-- What a row search found, or the error that names the field no row accepts. -/
def orReject (e : DecodeError) : Option Instr → Except DecodeError Instr
  | some i => .ok i
  | none => .error e

/-- The decoder: the one row of the request's format that accepts its selecting field (R108). -/
def decode (p : Params) : Request → Except DecodeError Instr
  | .memRd addr => orReject (.noMemRdRow addr) (selectRow memRdRows addr)
  | .memWr addr data => orReject (.noMemWrRow addr) ((selectRow memWrRows addr).map (· data))
  | .ioIn port => orReject (.noIoInRow port) (selectRow ioInRows port)
  | .ioOut port data => orReject (.noIoOutRow port) ((selectRow (ioOutRows p) port).map (· data))
  | .evt event pressed => .ok (decodeEvent pressed event)
  | .cfgLives n => .ok (.cfgLives n)
  | .cfgCoininfo b => .ok (.cfgCoininfo b)
  | .cfgBonus b => .ok (.cfgBonus b)
  | .cmd op => .ok (decodeCommand op)

open Machine (fill) in
/-- The encoder: the format tuple of an instruction (R100), its selecting field written from the pattern
column of R101 and the port ids of R102 and R103. The three micro-operations have no encoding (R108). -/
def encode (p : Params) : Instr → Option Request
  | .memrdRom a => some (.memRd (fill 0b0000000000000000#16 a))
  | .memrdRam a => some (.memRd (fill 0b0010000000000000#16 a))
  | .memrdVramA a => some (.memRd (fill 0b0010010000000000#16 a))
  | .memrdVramB a => some (.memRd (fill 0b0010100000000000#16 a))
  | .memrdVramC a => some (.memRd (fill 0b0011000000000000#16 a))
  | .memrdMirrorA a => some (.memRd (fill 0b0100000000000000#16 a))
  | .memrdMirrorB a => some (.memRd (fill 0b1000000000000000#16 a))
  | .memwrRom a data => some (.memWr (fill 0b0000000000000000#16 a) data)
  | .memwrRam a data => some (.memWr (fill 0b0010000000000000#16 a) data)
  | .memwrVramA a data => some (.memWr (fill 0b0010010000000000#16 a) data)
  | .memwrVramB a data => some (.memWr (fill 0b0010100000000000#16 a) data)
  | .memwrVramC a data => some (.memWr (fill 0b0011000000000000#16 a) data)
  | .memwrWindow a data => some (.memWr (fill 0b0100000000000000#16 a) data)
  | .memwrMirrorA a data => some (.memWr (fill 0b0100001000000000#16 a) data)
  | .memwrMirrorB a data => some (.memWr (fill 0b0100010000000000#16 a) data)
  | .memwrMirrorC a data => some (.memWr (fill 0b0100100000000000#16 a) data)
  | .memwrMirrorD a data => some (.memWr (fill 0b0101000000000000#16 a) data)
  | .memwrMirrorE a data => some (.memWr (fill 0b0110000000000000#16 a) data)
  | .memwrMirrorF a data => some (.memWr (fill 0b1000000000000000#16 a) data)
  | .inP1 => some (.ioIn 1)
  | .inP2 => some (.ioIn 2)
  | .inShift => some (.ioIn 3)
  | .inUnknownA => some (.ioIn 0)
  | .inUnknownB q => some (.ioIn (fill 0b00000100#8 q))
  | .inUnknownC q => some (.ioIn (fill 0b00001000#8 q))
  | .inUnknownD q => some (.ioIn (fill 0b00010000#8 q))
  | .inUnknownE q => some (.ioIn (fill 0b00100000#8 q))
  | .inUnknownF q => some (.ioIn (fill 0b01000000#8 q))
  | .inUnknownG q => some (.ioIn (fill 0b10000000#8 q))
  | .outShiftOffset data => some (.ioOut p.outShiftOffset data)
  | .outSoundA data => some (.ioOut p.outSoundA data)
  | .outShiftData data => some (.ioOut p.outShiftData data)
  | .outSoundB data => some (.ioOut p.outSoundB data)
  | .outWatchdog data => some (.ioOut p.outWatchdog data)
  | .outUnknownA q data => some (.ioOut (fill 0b00000000#8 q) data)
  | .outUnknownB port data => some (.ioOut port data)
  | .outUnknownC q data => some (.ioOut (fill 0b00001000#8 q) data)
  | .outUnknownD q data => some (.ioOut (fill 0b00010000#8 q) data)
  | .outUnknownE q data => some (.ioOut (fill 0b00100000#8 q) data)
  | .outUnknownF q data => some (.ioOut (fill 0b01000000#8 q) data)
  | .outUnknownG q data => some (.ioOut (fill 0b10000000#8 q) data)
  | .evtCoin pressed => some (.evt .coin pressed)
  | .evtTilt pressed => some (.evt .tilt pressed)
  | .evtP1Start pressed => some (.evt .p1Start pressed)
  | .evtP1Shoot pressed => some (.evt .p1Shoot pressed)
  | .evtP1Left pressed => some (.evt .p1Left pressed)
  | .evtP1Right pressed => some (.evt .p1Right pressed)
  | .evtP2Start pressed => some (.evt .p2Start pressed)
  | .evtP2Shoot pressed => some (.evt .p2Shoot pressed)
  | .evtP2Left pressed => some (.evt .p2Left pressed)
  | .evtP2Right pressed => some (.evt .p2Right pressed)
  | .cfgLives n => some (.cfgLives n)
  | .cfgCoininfo b => some (.cfgCoininfo b)
  | .cfgBonus b => some (.cfgBonus b)
  | .livesQ => some (.cmd .lives)
  | .bonusQ => some (.cmd .bonus)
  | .frame => some (.cmd .frame)
  | .srPush _ => none
  | .srRead => none
  | .srSetOffset _ => none

/-- The request a bare word of the opcode table stands for. The table gives a MEM_RD or MEM_WR row 16 bits
(the address) and an IO_IN or IO_OUT row 8 bits (the port id); the direction is part of the format and not of
the word (R100), so a word of a read row and of a write row may be the same. A bare word is read as the
format that has more rows, MEM_WR and IO_OUT, with a data operand of zero bits (log 10). -/
def tableRequest (nbits w : Nat) : Option Request :=
  if nbits = 16 ∧ w < 0x10000 then some (.memWr (BitVec.ofNat 16 w) 0)
  else if nbits = 8 ∧ w < 0x100 then some (.ioOut (BitVec.ofNat 8 w) 0)
  else none

/-- The instruction the decoder reads from a bare word of the opcode table, which is computed for the default
parameters (R108). -/
def decodeTableWord (nbits w : Nat) : Option Instr :=
  (tableRequest nbits w).bind fun r => (decode Params.default r).toOption

end Sys2Proof
end

