-- ==== Sys2Proof/Machine/State.lean ====
section
/-!
DEFINITION. The state of the block, its faults and refusals, and the state after reset (spec/10_state.md).

R20 gives the block ten elements: ROM, RAM, VRAM, SR.value, SR.offset, P1, P2, CYC, FRM, STATUS. The three
arrays are one memory keyed by address (R66 gives the index). R33 adds the position of a FRAME in progress.
The model adds of its own: `params` (the session's fixed parameters, R10), `constructing` (R105: straps apply
during construction only), `result` (what the last operation returned, R14) and `inputs` (the moves its host
and its engine have yet to make, R8); log 25.
-/

namespace Sys2Proof.Machine

/-! ### Memory -/

/-- Memory as the list of the bytes that differ from `Memory.unlisted`, keyed by address. -/
abbrev Memory := List Host.Cell

/-- What an address not in the list reads as. For RAM this is R22; for ROM and VRAM the content is an
argument of construction, listed byte by byte (DESIGN CHOICE, log 11). -/
def Memory.unlisted : Byte := 0

/-- The canonical form: addresses strictly rising, no entry equal to what an unlisted address reads as, and
none at an address without storage (R24). -/
abbrev Memory.wf (m : Memory) : Prop :=
  m.Pairwise (fun c d => c.1 < d.1) ∧ ∀ c ∈ m, c.2 ≠ Memory.unlisted ∧ c.1 < storageEnd

/-! ### Faults of the block (R280 to R285) -/

/-- The two interrupts the scheduler raises (R244, R287). -/
inductive Interrupt where
  | mid | vblank
  deriving DecidableEq, Repr

/-- The access that met MirrorGuard, with the fields R281 records. -/
inductive Access where
  | read (address : Addr)
  | write (address : Addr) (value : Byte)
  deriving DecidableEq, Repr

/-- What a memory transaction returns in place of a byte or Ok. -/
inductive RouterFault where
  /-- `IllegalWrite{address, value}`: a write to the ROM bank (R280). -/
  | illegalWrite (address : Addr) (value : Byte)
  /-- `UnmappedAccess` with its direction (R281). -/
  | unmappedAccess (access : Access)
  deriving DecidableEq, Repr

/-- What an engine call returns in place of its cycles or Ok (R247). -/
inductive CallFault where
  /-- A router fault, handed back unchanged by the engine (R247, R290). -/
  | router (fault : RouterFault)
  /-- `EngineFault`: a fault of the engine's own, its payload opaque to the block (R284, log 15). -/
  | engineFault (payload : Nat)
  deriving DecidableEq, Repr

/-- The single error a FRAME returns: the trap of R7. -/
inductive FatalError where
  /-- The fault of a `Step()` call (R250). -/
  | ofStep (fault : CallFault)
  /-- `InterruptDeliveryFault`: the fault of a `RaiseInterrupt` call, with its kind and cause (R282). -/
  | interruptDeliveryFault (kind : Interrupt) (cause : CallFault)
  deriving DecidableEq, Repr

/-- STATUS (R32). -/
inductive Status where
  | live
  | dead (error : FatalError)
  deriving DecidableEq, Repr

/-! ### The scheduler inside a FRAME (R33) -/

/-- What the scheduler waits for (R33). -/
inductive Phase where
  | toDone | toMid
  deriving DecidableEq, Repr

/-- The engine call the scheduler has made and the engine has not yet returned from (R244). -/
inductive Call where
  | step
  | raise (kind : Interrupt)
  deriving DecidableEq, Repr

/-- A FRAME in progress: the phase, the two thresholds computed at its start, and the outstanding call. -/
structure FrameRun where
  phase : Phase
  done : Nat
  mid : Nat
  call : Call
  deriving DecidableEq, Repr

/-! ### Results and inputs -/

/-- What an operation returned (R14, R100). -/
inductive Result where
  /-- The operation returns nothing, or has not returned yet. -/
  | nothing
  /-- Ok of MEMWR and of FRAME. -/
  | ok
  /-- The byte of MEMRD, IN and SR.read. -/
  | byte (b : Byte)
  /-- The number of LIVES? and BONUS?. -/
  | number (n : Nat)
  /-- The fault of a memory transaction. -/
  | fault (f : RouterFault)
  /-- The fatal error of FRAME. -/
  | err (e : FatalError)
  deriving DecidableEq, Repr

/-- One move of an agent: an operation its issuer presents, or the engine's return from the outstanding call
(R8, R244). -/
inductive Input where
  /-- An operation of the host or of the engine. -/
  | op (r : Request)
  /-- `Step()` returns this number of cycles. -/
  | stepReturns (cycles : Nat)
  /-- `RaiseInterrupt(kind)` returns Ok. -/
  | raiseReturns
  /-- The outstanding call returns a fault of the engine's own. -/
  | engineFaults (payload : Nat)
  deriving DecidableEq, Repr

/-! ### State -/

/-- The state of the block. -/
structure State where
  /-- The session's parameters; no step changes them (R10, R34). -/
  params : Params
  /-- ROM, RAM and VRAM, keyed by address (R21 to R23, R66). -/
  mem : Memory
  /-- SR.value (R25). -/
  srValue : BitVec 16
  /-- SR.offset (R26). -/
  srOffset : BitVec 3
  /-- P1 (R27). -/
  p1 : Byte
  /-- P2 (R28). -/
  p2 : Byte
  /-- CYC (R30). -/
  cyc : Nat
  /-- FRM (R31). -/
  frm : Nat
  /-- STATUS (R32). -/
  status : Status
  /-- The FRAME in progress, if one is (R33). -/
  frame : Option FrameRun
  /-- No operation but straps has been performed yet (R105, R235). -/
  constructing : Bool
  /-- What the last operation returned. -/
  result : Result
  /-- The moves yet to come, the next one first. -/
  inputs : List Input
  deriving DecidableEq, Repr

/-! ### How a step can stop -/

/-- Why a step stops with a fault. The faults of the spec are none of these: they are results of
transactions and the payload of STATUS, and the machine goes on to a next state with them. -/
inductive Fault where
  /-- The input says that an engine call returned, and no such call is outstanding. Raised by
  `stepReturns`, `raiseReturns` and `engineFaults`. SAFE: a call is a call (R244), so the real block never
  meets such a return (log 26). -/
  | unsolicitedReturn
  deriving DecidableEq, Repr

/-- Why the block gives an operation no step. -/
inductive Refusal where
  /-- An instruction that has no meaning yet, by its mnemonic. Raised by `exec` alone. SAFE. -/
  | notModelled (mnemonic : String)
  /-- Any operation on a dead session (R293: "a model refuses FRAME, EVT and every transaction there").
  Raised by `onLive`. SAFE (log 16). -/
  | deadSession
  /-- A move of the host while a FRAME is running (R331: the host has no such move). Raised by `onHost`.
  SAFE for a serialising host; for another host UNSAFE (log 14). -/
  | frameInProgress
  /-- A memory or port transaction with no engine call outstanding: the engine may issue one only inside a
  call, and the host may issue none (R297). Raised by `onCall`. SAFE (log 13). -/
  | noEngineCall
  /-- A strap after construction (R105, R235, R323). Raised by `onConstruction`. SAFE (log 24). -/
  | constructionOver
  /-- A request no row of its format accepts. Raised by `step`; never met (R109, R142). SAFE. -/
  | undecoded (error : DecodeError)
  deriving DecidableEq, Repr

/-- The three outcomes of an operation on this machine. -/
abbrev Outcome := Host.Outcome State Fault Refusal

/-! ### Reset -/

/-- The state at the end of construction, before the first operation, no strap applied (R40, R320), for the
default parameters, a ROM image of zeros and a frame buffer of zeros (log 11); `State.construct` in
Machine/Session.lean is the same for any arguments. -/
def State.reset : State where
  params := Params.default
  mem := []
  srValue := Params.default.srResetValue
  srOffset := Params.default.srResetOffset
  p1 := Params.default.port1Reset
  p2 := Params.default.port2Base
  cyc := Params.default.cycReset
  frm := 1
  status := .live
  frame := none
  constructing := true
  result := .nothing
  inputs := []

end Sys2Proof.Machine
end

