-- ==== Sys2Proof/Machine/Ops.lean ====
section
/-!
DEFINITION. The shared operations: memory, banks, shift register, ports, straps, who may issue an operation,
how an operation answers, and how a fault becomes fatal (spec/40 to 42, 60).
-/

namespace Sys2Proof.Machine

/-! ### Memory -/

/-- The byte at an address. -/
def Memory.read : Memory → Nat → Byte
  | [], _ => Memory.unlisted
  | (k, b) :: m, a => if k = a then b else Memory.read m a

/-- The cell of a byte, or no cell if the byte is what an unlisted address reads as. -/
def Memory.cell (a : Nat) (v : Byte) : Memory := if v = Memory.unlisted then [] else [(a, v)]

/-- The memory with the byte at an address replaced, in canonical form. -/
def Memory.write : Memory → Nat → Byte → Memory
  | [], a, v => Memory.cell a v
  | (k, b) :: m, a, v =>
    if a < k then Memory.cell a v ++ (k, b) :: m
    else if a = k then Memory.cell a v ++ m
    else (k, b) :: Memory.write m a v

/-- The bytes from an address on, as cells. -/
def Memory.image (base : Nat) : List Byte → Memory
  | [] => []
  | b :: bs => Memory.cell base b ++ Memory.image (base + 1) bs

/-! ### Banks (R61, R66) -/

/-- Element `i` of a bank's array: the byte at address `base + i` (R66). -/
def State.bankByte (s : State) (b : Bank) (i : Nat) : Byte := s.mem.read (b.base + i)

/-- Element `i` of a bank's array replaced. -/
def State.setBankByte (s : State) (b : Bank) (i : Nat) (v : Byte) : State :=
  { s with mem := s.mem.write (b.base + i) v }

/-- The bytes of VRAM in order: index `i` is `VRAM[i]` (R23). -/
def State.vram (s : State) : List Byte := (List.range Bank.videoFrame.size).map (s.bankByte .videoFrame)

/-- The host's read of the frame buffer: the flat view of R332, after any FRAME, Ok or failed. While a FRAME
is in progress the host has no such move, and the read answers none (R330, R331; log 31). -/
def State.frameBuffer (s : State) : Option (List Byte) :=
  match s.frame with
  | none => some s.vram
  | some _ => none

/-! ### The shift register (R170 to R172) -/

/-- SR.push (R170). -/
def State.srPush (s : State) (b : Byte) : State := { s with srValue := pushed s.srValue b }

/-- SR.read (R171). -/
def State.srRead (s : State) : Byte := window s.srValue s.srOffset

/-- SR.set_offset (R172). -/
def State.srSetOffset (s : State) (b : Byte) : State := { s with srOffset := offsetOperand b }

/-! ### The port bytes -/

/-- One bit of a port byte written. -/
def State.writePortBit (s : State) (at' : PortBit) (v : Bool) : State :=
  match at'.port with
  | .port1 => { s with p1 := writeBit s.p1 at'.bit v }
  | .port2 => { s with p2 := writeBit s.p2 at'.bit v }

/-- EVT: the event's bit takes its level (R210). -/
def State.applyEvent (s : State) (e : Event) (pressed : Bool) : State :=
  s.writePortBit (s.params.eventMap.get e) (eventLevel e pressed)

/-- P2 with its LIVES field replaced (R230). -/
def withLives (p : Params) (p2 : Byte) (field : BitVec 2) : Byte :=
  writeBit (writeBit p2 p.p2LivesLsb.castSucc (field.getLsbD 0)) p.p2LivesLsb.succ (field.getLsbD 1)

/-- The LIVES field of P2 (R28). -/
def livesField (p : Params) (p2 : Byte) : BitVec 2 := p2.extractLsb' p.p2LivesLsb.val 2

/-- LIVES?: the field plus 3 (R233). -/
def State.lives (s : State) : Nat := (livesField s.params s.p2).toNat + 3

/-- BONUS?: 1000 if the BONUS bit is set, else 1500 (R234). -/
def State.bonusLife (s : State) : Nat := if readBit s.p2 s.params.p2BonusBit then 1000 else 1500

/-- A strap: P2 replaced, and the session still under construction (R230 to R232, R235). -/
def State.strap (s : State) (p2 : Byte) : State := { s with p2 := p2, result := .nothing }

/-! ### How an operation answers -/

/-- The operation is over and returned `r`. Every operation but a strap ends construction (R235). -/
def State.returns (s : State) (r : Result) : State := { s with result := r, constructing := false }

/-- No operation has a meaning on a dead session (R293). -/
def onLive (s : State) (o : Outcome) : Outcome :=
  match s.status with
  | .live => o
  | .dead _ => .refused .deadSession

/-- A move of the host: on a live session, between FRAME commands (R331). -/
def onHost (s : State) (o : Outcome) : Outcome :=
  onLive s (match s.frame with
    | none => o
    | some _ => .refused .frameInProgress)

/-- A strap: on a live session under construction (R105). -/
def onConstruction (s : State) (o : Outcome) : Outcome :=
  onLive s (if s.constructing then o else .refused .constructionOver)

/-! ### Who may issue a move (R297)

The host's limits are in the meanings of its operations (`onHost`, `onConstruction`). A memory or port
transaction is the engine's. Its meaning is the operation of the router or of the port controller, which the
scripts of the spec also show alone (R120); the limit on who issues it and when stands in the step (log 13). -/

/-- The memory and port transactions: the operations of the engine (R297). -/
def isTransaction : Request → Bool
  | .memRd _ => true
  | .memWr _ _ => true
  | .ioIn _ => true
  | .ioOut _ _ => true
  | .evt _ _ => false
  | .cfgLives _ => false
  | .cfgCoininfo _ => false
  | .cfgBonus _ => false
  | .cmd _ => false

/-- A move of the engine: on a live session, inside a `Step()` or `RaiseInterrupt` call (R297). A FRAME in
progress has such a call outstanding, and nothing else has. -/
def onCall (s : State) (o : Outcome) : Outcome :=
  onLive s (match s.frame with
    | some _ => o
    | none => .refused .noEngineCall)

/-- A request is issued: a transaction as a move of the engine, any other as its meaning says (R297). -/
def issue (r : Request) (s : State) (o : Outcome) : Outcome := if isTransaction r then onCall s o else o

/-! ### Taking a fault (R290 to R292)

There is no vector and no handler: a fatal error ends the FRAME and goes to the host. Nothing is rolled back,
`CYC` and `FRM` keep their values (R291). There is no return from it (R294). -/

/-- The error a FRAME reports when its outstanding call faults (R250, R282). -/
def Call.error : Call → CallFault → FatalError
  | .step, f => .ofStep f
  | .raise k, f => .interruptDeliveryFault k f

/-- The FRAME ends with a fatal error: STATUS is dead for good, the host gets the error (R250, R290). -/
def State.die (s : State) (e : FatalError) : State :=
  { s with status := .dead e, frame := none, result := .err e, constructing := false }

/-- A memory transaction faults. Inside an engine call the engine hands the fault back as the result of the
call, which ends the FRAME (R247, R290); outside one it is the transaction's result and changes nothing else
(R161; log 13). -/
def State.routerFault (s : State) (f : RouterFault) : State :=
  match s.frame with
  | some fr => s.die (fr.call.error (.router f))
  | none => s.returns (.fault f)

/-! ### The total operations of the spec's pseudocode

`MemRead`, `MemWrite`, `PortIn` and `PortOut` (R13) as R140, R141, R190 and R200 write them, by address and
port id. The instructions are the rows of the decode table; Laws relate the two. -/

/-- MEMRD (R140). -/
def State.memRead (s : State) (addr : Addr) : Except RouterFault Byte :=
  if addr.toNat < 0x2000 then .ok (s.bankByte .rom addr.toNat)
  else if addr.toNat < 0x2400 then .ok (s.bankByte .ram (addr.toNat - 0x2000))
  else if addr.toNat < 0x4000 then .ok (s.bankByte .videoFrame (addr.toNat - 0x2400))
  else .error (.unmappedAccess (.read addr))

/-- MEMWR (R141): the window is tested first. -/
def State.memWrite (s : State) (addr : Addr) (v : Byte) : Except RouterFault State :=
  if windowBase ≤ addr.toNat ∧ addr.toNat < windowEnd then .ok s
  else if addr.toNat < 0x2000 then .error (.illegalWrite addr v)
  else if addr.toNat < 0x2400 then .ok (s.setBankByte .ram (addr.toNat - 0x2000) v)
  else if addr.toNat < 0x4000 then .ok (s.setBankByte .videoFrame (addr.toNat - 0x2400) v)
  else .error (.unmappedAccess (.write addr v))

/-- IN (R190). -/
def State.portIn (s : State) (port : PortId) : Byte :=
  if port = 1 then s.p1
  else if port = 2 then s.p2
  else if port = 3 then s.srRead
  else 0xFF

/-- OUT (R200): the sound, watchdog and undecoded ids change nothing. -/
def State.portOut (s : State) (port : PortId) (v : Byte) : State :=
  if port = s.params.outShiftOffset then s.srSetOffset v
  else if port = s.params.outShiftData then s.srPush v
  else s

end Sys2Proof.Machine
end

