-- ==== Sys2Proof/Machine/Configuration.lean ====
section
/-!
DEFINITION. The CFG rows (R230 to R232) and the two derived readers (R233, R234).
-/

namespace Sys2Proof.Machine

/-- CFG.LIVES (R230). -/
def execCfgLives (n : Nat) (s : State) : Outcome :=
  onConstruction s (.next (s.strap (withLives s.params s.p2 (livesOperand n))))

/-- CFG.COININFO: the bit is stored inverted (R231). -/
def execCfgCoininfo (b : Bool) (s : State) : Outcome :=
  onConstruction s (.next (s.strap (writeBit s.p2 s.params.p2CoininfoBit (!b))))

/-- CFG.BONUS (R232). -/
def execCfgBonus (b : Bool) (s : State) : Outcome :=
  onConstruction s (.next (s.strap (writeBit s.p2 s.params.p2BonusBit b)))

/-- LIVES? (R233). -/
def execLivesQ (s : State) : Outcome := onHost s (.next (s.returns (.number s.lives)))

/-- BONUS? (R234). -/
def execBonusQ (s : State) : Outcome := onHost s (.next (s.returns (.number s.bonusLife)))

end Sys2Proof.Machine
end

