-- ==== Sys2Proof/Machine/Events.lean ====
section
/-!
DEFINITION. The EVT rows: the ten control events (R210 to R220).
-/

namespace Sys2Proof.Machine

/-- A control event sets its bit to its level and returns nothing (R210). -/
def event (e : Event) (pressed : Bool) (s : State) : Outcome :=
  onHost s (.next ((s.applyEvent e pressed).returns .nothing))

/-- EVT.Coin (R211). -/
def execEvtCoin (pressed : Bool) (s : State) : Outcome := event .coin pressed s

/-- EVT.Tilt (R212). -/
def execEvtTilt (pressed : Bool) (s : State) : Outcome := event .tilt pressed s

/-- EVT.P1Start (R213). -/
def execEvtP1Start (pressed : Bool) (s : State) : Outcome := event .p1Start pressed s

/-- EVT.P1Shoot (R214). -/
def execEvtP1Shoot (pressed : Bool) (s : State) : Outcome := event .p1Shoot pressed s

/-- EVT.P1Left (R215). -/
def execEvtP1Left (pressed : Bool) (s : State) : Outcome := event .p1Left pressed s

/-- EVT.P1Right (R216). -/
def execEvtP1Right (pressed : Bool) (s : State) : Outcome := event .p1Right pressed s

/-- EVT.P2Start (R217). -/
def execEvtP2Start (pressed : Bool) (s : State) : Outcome := event .p2Start pressed s

/-- EVT.P2Shoot (R218). -/
def execEvtP2Shoot (pressed : Bool) (s : State) : Outcome := event .p2Shoot pressed s

/-- EVT.P2Left (R219). -/
def execEvtP2Left (pressed : Bool) (s : State) : Outcome := event .p2Left pressed s

/-- EVT.P2Right (R220). -/
def execEvtP2Right (pressed : Bool) (s : State) : Outcome := event .p2Right pressed s

end Sys2Proof.Machine
end

