-- ==== Sys2Proof/Machine/MemRead.lean ====
section
/-!
DEFINITION. The MEM_RD rows: memory reads by region (R140, R143 to R146). A read changes no state but the
result it returns.
-/

namespace Sys2Proof.Machine

/-- A read of a bank with storage returns the bank's byte (R143 to R145). -/
def readBank (b : Bank) (addr : Addr) (s : State) : Outcome :=
  onLive s (.next (s.returns (.byte (s.bankByte b (bankIndex b addr)))))

/-- A read that reaches MirrorGuard faults (R146). -/
def readMirror (addr : Addr) (s : State) : Outcome :=
  onLive s (.next (s.routerFault (.unmappedAccess (.read addr))))

/-- MEMRD.ROM (R143). -/
def execMemrdRom (a : BitVec 13) (s : State) : Outcome := readBank .rom (fill 0b0000000000000000#16 a) s

/-- MEMRD.RAM (R144). -/
def execMemrdRam (a : BitVec 10) (s : State) : Outcome := readBank .ram (fill 0b0010000000000000#16 a) s

/-- MEMRD.VRAM.a (R145). -/
def execMemrdVramA (a : BitVec 10) (s : State) : Outcome := readBank .videoFrame (fill 0b0010010000000000#16 a) s

/-- MEMRD.VRAM.b (R145). -/
def execMemrdVramB (a : BitVec 11) (s : State) : Outcome := readBank .videoFrame (fill 0b0010100000000000#16 a) s

/-- MEMRD.VRAM.c (R145). -/
def execMemrdVramC (a : BitVec 12) (s : State) : Outcome := readBank .videoFrame (fill 0b0011000000000000#16 a) s

/-- MEMRD.MIRROR.a (R146). -/
def execMemrdMirrorA (a : BitVec 14) (s : State) : Outcome := readMirror (fill 0b0100000000000000#16 a) s

/-- MEMRD.MIRROR.b (R146). -/
def execMemrdMirrorB (a : BitVec 15) (s : State) : Outcome := readMirror (fill 0b1000000000000000#16 a) s

end Sys2Proof.Machine
end

