-- ==== Sys2Proof/Machine/MemWrite.lean ====
section
/-!
DEFINITION. The MEM_WR rows: memory writes by region (R141, R150 to R154). A write changes at most one byte.
-/

namespace Sys2Proof.Machine

/-- A write to RAM or VRAM stores the byte and returns Ok (R151, R152). -/
def writeBank (b : Bank) (addr : Addr) (data : Byte) (s : State) : Outcome :=
  onLive s (.next ((s.setBankByte b (bankIndex b addr) data).returns .ok))

/-- A write to the write-ignore window returns Ok and stores nothing (R153). -/
def writeWindow (_addr : Addr) (_data : Byte) (s : State) : Outcome :=
  onLive s (.next (s.returns .ok))

/-- A write to ROM faults and stores nothing (R150). -/
def writeRom (addr : Addr) (data : Byte) (s : State) : Outcome :=
  onLive s (.next (s.routerFault (.illegalWrite addr data)))

/-- A write that reaches MirrorGuard faults (R154). -/
def writeMirror (addr : Addr) (data : Byte) (s : State) : Outcome :=
  onLive s (.next (s.routerFault (.unmappedAccess (.write addr data))))

/-- MEMWR.ROM (R150). -/
def execMemwrRom (a : BitVec 13) (data : Byte) (s : State) : Outcome :=
  writeRom (fill 0b0000000000000000#16 a) data s

/-- MEMWR.RAM (R151). -/
def execMemwrRam (a : BitVec 10) (data : Byte) (s : State) : Outcome :=
  writeBank .ram (fill 0b0010000000000000#16 a) data s

/-- MEMWR.VRAM.a (R152). -/
def execMemwrVramA (a : BitVec 10) (data : Byte) (s : State) : Outcome :=
  writeBank .videoFrame (fill 0b0010010000000000#16 a) data s

/-- MEMWR.VRAM.b (R152). -/
def execMemwrVramB (a : BitVec 11) (data : Byte) (s : State) : Outcome :=
  writeBank .videoFrame (fill 0b0010100000000000#16 a) data s

/-- MEMWR.VRAM.c (R152). -/
def execMemwrVramC (a : BitVec 12) (data : Byte) (s : State) : Outcome :=
  writeBank .videoFrame (fill 0b0011000000000000#16 a) data s

/-- MEMWR.WINDOW (R153). -/
def execMemwrWindow (a : BitVec 9) (data : Byte) (s : State) : Outcome :=
  writeWindow (fill 0b0100000000000000#16 a) data s

/-- MEMWR.MIRROR.a (R154). -/
def execMemwrMirrorA (a : BitVec 9) (data : Byte) (s : State) : Outcome :=
  writeMirror (fill 0b0100001000000000#16 a) data s

/-- MEMWR.MIRROR.b (R154). -/
def execMemwrMirrorB (a : BitVec 10) (data : Byte) (s : State) : Outcome :=
  writeMirror (fill 0b0100010000000000#16 a) data s

/-- MEMWR.MIRROR.c (R154). -/
def execMemwrMirrorC (a : BitVec 11) (data : Byte) (s : State) : Outcome :=
  writeMirror (fill 0b0100100000000000#16 a) data s

/-- MEMWR.MIRROR.d (R154). -/
def execMemwrMirrorD (a : BitVec 12) (data : Byte) (s : State) : Outcome :=
  writeMirror (fill 0b0101000000000000#16 a) data s

/-- MEMWR.MIRROR.e (R154). -/
def execMemwrMirrorE (a : BitVec 13) (data : Byte) (s : State) : Outcome :=
  writeMirror (fill 0b0110000000000000#16 a) data s

/-- MEMWR.MIRROR.f (R154). -/
def execMemwrMirrorF (a : BitVec 15) (data : Byte) (s : State) : Outcome :=
  writeMirror (fill 0b1000000000000000#16 a) data s

end Sys2Proof.Machine
end

