-- ==== Sys2Proof/Machine/PortIn.lean ====
section
/-!
DEFINITION. The IO_IN rows: port input (R190 to R194). No input faults and none changes state.
-/

namespace Sys2Proof.Machine

/-- A port input returns a byte (R190). -/
def input (b : Byte) (s : State) : Outcome := onLive s (.next (s.returns (.byte b)))

/-- What an undecoded input port reads as (R9, UNKNOWN_PORT_READ; R194). -/
def unknownPortRead : Byte := 0xFF

/-- IN.P1 (R191). -/
def execInP1 (s : State) : Outcome := input s.p1 s

/-- IN.P2 (R192). -/
def execInP2 (s : State) : Outcome := input s.p2 s

/-- IN.SHIFT (R193). -/
def execInShift (s : State) : Outcome := input s.srRead s

/-- IN.UNKNOWN.a (R194). -/
def execInUnknownA (s : State) : Outcome := input unknownPortRead s

/-- IN.UNKNOWN.b (R194). -/
def execInUnknownB (_p : BitVec 2) (s : State) : Outcome := input unknownPortRead s

/-- IN.UNKNOWN.c (R194). -/
def execInUnknownC (_p : BitVec 3) (s : State) : Outcome := input unknownPortRead s

/-- IN.UNKNOWN.d (R194). -/
def execInUnknownD (_p : BitVec 4) (s : State) : Outcome := input unknownPortRead s

/-- IN.UNKNOWN.e (R194). -/
def execInUnknownE (_p : BitVec 5) (s : State) : Outcome := input unknownPortRead s

/-- IN.UNKNOWN.f (R194). -/
def execInUnknownF (_p : BitVec 6) (s : State) : Outcome := input unknownPortRead s

/-- IN.UNKNOWN.g (R194). -/
def execInUnknownG (_p : BitVec 7) (s : State) : Outcome := input unknownPortRead s

end Sys2Proof.Machine
end

