-- ==== Sys2Proof/Machine/PortOut.lean ====
section
/-!
DEFINITION. The IO_OUT rows: port output (R200 to R205). No output faults; only the two shift ports change
state.
-/

namespace Sys2Proof.Machine

/-- A port output does its work, if it has any, and returns nothing (R200). -/
def output (s t : State) : Outcome := onLive s (.next (t.returns .nothing))

/-- OUT.SHIFT_OFFSET (R202). -/
def execOutShiftOffset (data : Byte) (s : State) : Outcome := output s (s.srSetOffset data)

/-- OUT.SOUND_A: accepted and discarded (R203). -/
def execOutSoundA (_data : Byte) (s : State) : Outcome := output s s

/-- OUT.SHIFT_DATA (R201). -/
def execOutShiftData (data : Byte) (s : State) : Outcome := output s (s.srPush data)

/-- OUT.SOUND_B: accepted and discarded (R203). -/
def execOutSoundB (_data : Byte) (s : State) : Outcome := output s s

/-- OUT.WATCHDOG: accepted and discarded; there is no watchdog timer (R204). -/
def execOutWatchdog (_data : Byte) (s : State) : Outcome := output s s

/-- OUT.UNKNOWN.a: discarded (R205). -/
def execOutUnknownA (_p : BitVec 1) (_data : Byte) (s : State) : Outcome := output s s

/-- OUT.UNKNOWN.b: discarded (R205). -/
def execOutUnknownB (_p : BitVec 8) (_data : Byte) (s : State) : Outcome := output s s

/-- OUT.UNKNOWN.c: discarded (R205). -/
def execOutUnknownC (_p : BitVec 3) (_data : Byte) (s : State) : Outcome := output s s

/-- OUT.UNKNOWN.d: discarded (R205). -/
def execOutUnknownD (_p : BitVec 4) (_data : Byte) (s : State) : Outcome := output s s

/-- OUT.UNKNOWN.e: discarded (R205). -/
def execOutUnknownE (_p : BitVec 5) (_data : Byte) (s : State) : Outcome := output s s

/-- OUT.UNKNOWN.f: discarded (R205). -/
def execOutUnknownF (_p : BitVec 6) (_data : Byte) (s : State) : Outcome := output s s

/-- OUT.UNKNOWN.g: discarded (R205). -/
def execOutUnknownG (_p : BitVec 7) (_data : Byte) (s : State) : Outcome := output s s

end Sys2Proof.Machine
end

