-- ==== Sys2Proof/Machine/Scheduler.lean ====
section
/-!
DEFINITION. The FrameScheduler (spec/43_frame_scheduler.md): FRAME and the engine's returns.

FRAME is modelled in the interleaved form R33 allows (log 12): the command computes the thresholds and makes the first
engine call, then waits; each return of the engine is a step of its own, which counts cycles, compares, and
makes the next call or ends the FRAME. A FRAME whose engine never carries CYC past its threshold never ends
(R256): no fuel and no time-out stand here.
-/

namespace Sys2Proof.Machine

/-! ### Thresholds and comparators -/

/-- `done = FRM × FULL_FRAME_BUDGET` (R242). -/
def State.doneThreshold (s : State) : Nat := s.frm * s.params.fullFrameBudget

/-- `mid = done + HALF_FRAME_BUDGET` (R242). -/
def State.midThreshold (s : State) : Nat := s.doneThreshold + s.params.halfFrameBudget

/-- The threshold a phase waits for (R33). -/
def Phase.threshold (phase : Phase) (done mid : Nat) : Nat :=
  match phase with
  | .toDone => done
  | .toMid => mid

/-- The interrupt raised when a phase's threshold is met (R254). -/
def Phase.interrupt : Phase → Interrupt
  | .toDone => .mid
  | .toMid => .vblank

/-- The call the scheduler makes next: `Step()` while CYC is below the threshold, else the interrupt. The test
comes first (R243, R251). -/
def nextCall (cyc : Nat) (phase : Phase) (done mid : Nat) : Call :=
  if cyc < phase.threshold done mid then .step else .raise phase.interrupt

/-- The scheduler compares CYC with the threshold of `phase` and makes the next call. -/
def State.await (s : State) (phase : Phase) (done mid : Nat) : State :=
  { s with frame := some ⟨phase, done, mid, nextCall s.cyc phase done mid⟩, result := .nothing }

/-- CYC counts the cycles of a step that returned (R250). -/
def State.addCycles (s : State) (cycles : Nat) : State := { s with cyc := s.cyc + cycles }

/-- The FRAME returns Ok: FRM is incremented and no FRAME is in progress (R250). -/
def State.finishFrame (s : State) : State :=
  { s with frm := s.frm + 1, frame := none, result := .ok, constructing := false }

/-- A FRAME begins: the thresholds are computed and the first call is made (R250). -/
def State.beginFrame (s : State) : State :=
  (s.returns .nothing).await .toDone s.doneThreshold s.midThreshold

/-- The state with an engine call outstanding: as it is inside a FRAME, and else as a FRAME begins. -/
def State.inCall (s : State) : State :=
  match s.frame with
  | some _ => s
  | none => s.beginFrame

/-! ### The command and the returns of the engine -/

/-- FRAME (R250). -/
def execFrame (s : State) : Outcome := onHost s (.next s.beginFrame)

/-- `Step()` returns its cycle cost (R250). -/
def stepReturns (cycles : Nat) (s : State) : Outcome :=
  onLive s (match s.frame with
    | some ⟨phase, done, mid, .step⟩ => .next ((s.addCycles cycles).await phase done mid)
    | _ => .fault .unsolicitedReturn)

/-- `RaiseInterrupt(kind)` returns Ok: after Mid the second loop, after VBlank the end of the FRAME (R250). It
costs no cycles (R292). -/
def raiseReturns (s : State) : Outcome :=
  onLive s (match s.frame with
    | some ⟨_, done, mid, .raise .mid⟩ => .next (s.await .toMid done mid)
    | some ⟨_, _, _, .raise .vblank⟩ => .next s.finishFrame
    | _ => .fault .unsolicitedReturn)

/-- The outstanding call returns a fault of the engine's own (R250, R282, R284). -/
def engineFaults (payload : Nat) (s : State) : Outcome :=
  onLive s (match s.frame with
    | some fr => .next (s.die (fr.call.error (.engineFault payload)))
    | none => .fault .unsolicitedReturn)

end Sys2Proof.Machine
end

