-- ==== Sys2Proof/Machine/ShiftRegister.lean ====
section
/-!
DEFINITION. The MICRO rows: the three operations of the shift register (R170 to R172). They have no encoding;
the ports reach them (R193, R201, R202). As instructions of their own they are transactions of the engine
(log 27).
-/

namespace Sys2Proof.Machine

/-- SR.push (R170). -/
def execSrPush (b : Byte) (s : State) : Outcome := onLive s (.next ((s.srPush b).returns .nothing))

/-- SR.read (R171). -/
def execSrRead (s : State) : Outcome := onLive s (.next (s.returns (.byte s.srRead)))

/-- SR.set_offset (R172). -/
def execSrSetOffset (b : Byte) (s : State) : Outcome :=
  onLive s (.next ((s.srSetOffset b).returns .nothing))

end Sys2Proof.Machine
end

