-- ==== Sys2Proof/Machine/Dispatch.lean ====
section
/-! DEFINITION. The meaning of each instruction: one arm per row of the opcode table. -/

namespace Sys2Proof.Machine

def exec (i : Instr) (s : State) : Host.Outcome State Fault Refusal :=
  match i with
  | .memrdRom a => Sys2Proof.Machine.execMemrdRom a s
  | .memrdRam a => Sys2Proof.Machine.execMemrdRam a s
  | .memrdVramA a => Sys2Proof.Machine.execMemrdVramA a s
  | .memrdVramB a => Sys2Proof.Machine.execMemrdVramB a s
  | .memrdVramC a => Sys2Proof.Machine.execMemrdVramC a s
  | .memrdMirrorA a => Sys2Proof.Machine.execMemrdMirrorA a s
  | .memrdMirrorB a => Sys2Proof.Machine.execMemrdMirrorB a s
  | .memwrRom a data => Sys2Proof.Machine.execMemwrRom a data s
  | .memwrRam a data => Sys2Proof.Machine.execMemwrRam a data s
  | .memwrVramA a data => Sys2Proof.Machine.execMemwrVramA a data s
  | .memwrVramB a data => Sys2Proof.Machine.execMemwrVramB a data s
  | .memwrVramC a data => Sys2Proof.Machine.execMemwrVramC a data s
  | .memwrWindow a data => Sys2Proof.Machine.execMemwrWindow a data s
  | .memwrMirrorA a data => Sys2Proof.Machine.execMemwrMirrorA a data s
  | .memwrMirrorB a data => Sys2Proof.Machine.execMemwrMirrorB a data s
  | .memwrMirrorC a data => Sys2Proof.Machine.execMemwrMirrorC a data s
  | .memwrMirrorD a data => Sys2Proof.Machine.execMemwrMirrorD a data s
  | .memwrMirrorE a data => Sys2Proof.Machine.execMemwrMirrorE a data s
  | .memwrMirrorF a data => Sys2Proof.Machine.execMemwrMirrorF a data s
  | .inP1 => Sys2Proof.Machine.execInP1 s
  | .inP2 => Sys2Proof.Machine.execInP2 s
  | .inShift => Sys2Proof.Machine.execInShift s
  | .inUnknownA => Sys2Proof.Machine.execInUnknownA s
  | .inUnknownB p => Sys2Proof.Machine.execInUnknownB p s
  | .inUnknownC p => Sys2Proof.Machine.execInUnknownC p s
  | .inUnknownD p => Sys2Proof.Machine.execInUnknownD p s
  | .inUnknownE p => Sys2Proof.Machine.execInUnknownE p s
  | .inUnknownF p => Sys2Proof.Machine.execInUnknownF p s
  | .inUnknownG p => Sys2Proof.Machine.execInUnknownG p s
  | .outShiftOffset data => Sys2Proof.Machine.execOutShiftOffset data s
  | .outSoundA data => Sys2Proof.Machine.execOutSoundA data s
  | .outShiftData data => Sys2Proof.Machine.execOutShiftData data s
  | .outSoundB data => Sys2Proof.Machine.execOutSoundB data s
  | .outWatchdog data => Sys2Proof.Machine.execOutWatchdog data s
  | .outUnknownA p data => Sys2Proof.Machine.execOutUnknownA p data s
  | .outUnknownB port data => Sys2Proof.Machine.execOutUnknownB port data s
  | .outUnknownC p data => Sys2Proof.Machine.execOutUnknownC p data s
  | .outUnknownD p data => Sys2Proof.Machine.execOutUnknownD p data s
  | .outUnknownE p data => Sys2Proof.Machine.execOutUnknownE p data s
  | .outUnknownF p data => Sys2Proof.Machine.execOutUnknownF p data s
  | .outUnknownG p data => Sys2Proof.Machine.execOutUnknownG p data s
  | .evtCoin pressed => Sys2Proof.Machine.execEvtCoin pressed s
  | .evtTilt pressed => Sys2Proof.Machine.execEvtTilt pressed s
  | .evtP1Start pressed => Sys2Proof.Machine.execEvtP1Start pressed s
  | .evtP1Shoot pressed => Sys2Proof.Machine.execEvtP1Shoot pressed s
  | .evtP1Left pressed => Sys2Proof.Machine.execEvtP1Left pressed s
  | .evtP1Right pressed => Sys2Proof.Machine.execEvtP1Right pressed s
  | .evtP2Start pressed => Sys2Proof.Machine.execEvtP2Start pressed s
  | .evtP2Shoot pressed => Sys2Proof.Machine.execEvtP2Shoot pressed s
  | .evtP2Left pressed => Sys2Proof.Machine.execEvtP2Left pressed s
  | .evtP2Right pressed => Sys2Proof.Machine.execEvtP2Right pressed s
  | .cfgLives n => Sys2Proof.Machine.execCfgLives n s
  | .cfgCoininfo b => Sys2Proof.Machine.execCfgCoininfo b s
  | .cfgBonus b => Sys2Proof.Machine.execCfgBonus b s
  | .livesQ => Sys2Proof.Machine.execLivesQ s
  | .bonusQ => Sys2Proof.Machine.execBonusQ s
  | .frame => Sys2Proof.Machine.execFrame s
  | .srPush b => Sys2Proof.Machine.execSrPush b s
  | .srRead => Sys2Proof.Machine.execSrRead s
  | .srSetOffset b => Sys2Proof.Machine.execSrSetOffset b s

end Sys2Proof.Machine
end

