-- ==== Sys2Proof/Machine/Step.lean ====
section
/-!
DEFINITION. One step of the block: the next move of its agents, in the order issued (R80).

A move is an operation, which is decoded, issued by the agent whose it is (R297) and executed, or a return of
the engine. With no move waiting the
block does nothing: between FRAME commands it is idle, and during one it waits for the engine (R8; log 28).
-/

namespace Sys2Proof.Machine

/-- The state without its first waiting move. -/
def State.dropInput (s : State) : State := { s with inputs := s.inputs.tail }

/-- One step. -/
def step (s : State) : Host.Outcome State Fault Refusal :=
  match s.inputs with
  | [] => .next s
  | .op r :: _ =>
    match decode s.params r with
    | .ok i => issue r s.dropInput (exec i s.dropInput)
    | .error e => .refused (.undecoded e)
  | .stepReturns cycles :: _ => stepReturns cycles s.dropInput
  | .raiseReturns :: _ => raiseReturns s.dropInput
  | .engineFaults payload :: _ => engineFaults payload s.dropInput

/-- The state with the request of a bare opcode-table word as its next move. Such a word is a transaction,
which the engine issues inside a call (R297), so a FRAME is begun if none is in progress (log 10). A word that
no format has (`tableRequest` answers none) is no move, and the state stays as it is. -/
def State.withFetchWord (s : State) (nbits w : Nat) : State :=
  match tableRequest nbits w with
  | some r => { s.inCall with inputs := .op r :: s.inputs }
  | none => s

end Sys2Proof.Machine
end

