-- ==== Sys2Proof/Laws/Bits.lean ====
section
/-!
SUPPORT. Arithmetic of the operands: row patterns as address ranges, the shift register's formulas, and single
bits of the port bytes.
-/

namespace Sys2Proof.Machine

/-! ### Row patterns -/

/-- Masking away the low `k` bits rounds down to a multiple of `2 ^ k`. -/
theorem and_highMask (w k x : Nat) (hk : k ≤ w) (hx : x < 2 ^ w) :
    x &&& (2 ^ w - 2 ^ k) = x / 2 ^ k * 2 ^ k := by
  have hw : 2 ^ w = 2 ^ (w - k) * 2 ^ k := by rw [← Nat.pow_add]; congr 1; omega
  have hm : 2 ^ w - 2 ^ k = (2 ^ (w - k) - 1) <<< k := by
    rw [Nat.shiftLeft_eq, Nat.sub_mul, Nat.one_mul, ← hw]
  apply Nat.eq_of_testBit_eq
  intro i
  rw [hm, Nat.testBit_and, Nat.testBit_shiftLeft, ← Nat.shiftLeft_eq, Nat.testBit_shiftLeft,
    Nat.testBit_two_pow_sub_one, Nat.testBit_div_two_pow]
  by_cases hik : k ≤ i
  · rw [Nat.sub_add_cancel hik]
    by_cases hiw : i < w
    · have : i - k < w - k := by omega
      simp [hik, this]
    · rw [Nat.testBit_lt_two_pow (Nat.lt_of_lt_of_le hx (Nat.pow_le_pow_right (by decide) (by omega)))]
      simp
  · simp [hik]

/-- A pattern of fixed high bits and `k` free low bits holds of the numbers of one block of `2 ^ k`. -/
theorem accepts_iff_div {w : Nat} (k : Nat) (v mask bits : BitVec w) (hk : k ≤ w)
    (hmask : mask.toNat = 2 ^ w - 2 ^ k) (hbits : bits.toNat % 2 ^ k = 0) :
    v &&& mask = bits ↔ v.toNat / 2 ^ k = bits.toNat / 2 ^ k := by
  rw [← BitVec.toNat_inj, BitVec.toNat_and, hmask, and_highMask w k v.toNat hk v.isLt]
  have hb := Nat.div_add_mod bits.toNat (2 ^ k)
  rw [hbits, Nat.add_zero, Nat.mul_comm] at hb
  constructor
  · intro h
    rw [← hb] at h
    exact Nat.eq_of_mul_eq_mul_right (Nat.two_pow_pos k) h
  · intro h
    rw [h, hb]

/-- The value of a selecting field is the sum of its fixed and its free bits. -/
theorem fill_toNat {w n : Nat} (fixed : BitVec w) (free : BitVec n) (h : fixed.toNat + 2 ^ n ≤ 2 ^ w) :
    (fill fixed free).toNat = fixed.toNat + free.toNat := by
  have := free.isLt
  have hn : free.toNat < 2 ^ w := by omega
  rw [fill, BitVec.toNat_add, BitVec.toNat_setWidth, Nat.mod_eq_of_lt hn, Nat.mod_eq_of_lt (by omega)]

/-- The free bits are read back from the value of the field. -/
theorem fill_setWidth {w n : Nat} (fixed : BitVec w) (free : BitVec n) (h : fixed.toNat + 2 ^ n ≤ 2 ^ w)
    (hfree : fixed.toNat % 2 ^ n = 0) : (fill fixed free).setWidth n = free := by
  apply BitVec.eq_of_toNat_eq
  rw [BitVec.toNat_setWidth, fill_toNat fixed free h, Nat.add_mod, hfree, Nat.zero_add, Nat.mod_mod,
    Nat.mod_eq_of_lt free.isLt]

/-- The value of a selecting field as the number it stands for. -/
theorem fill_eq_ofNat {w n : Nat} (fixed : BitVec w) (free : BitVec n) (h : fixed.toNat + 2 ^ n ≤ 2 ^ w) :
    fill fixed free = BitVec.ofNat w (fixed.toNat + free.toNat) := by
  apply BitVec.eq_of_toNat_eq
  have := free.isLt
  rw [fill_toNat fixed free h, BitVec.toNat_ofNat, Nat.mod_eq_of_lt (by omega)]

/-- A value inside a row's block is the row's fixed bits with its own low bits. -/
theorem fill_setWidth_self {w n : Nat} (fixed v : BitVec w) (h : fixed.toNat + 2 ^ n ≤ 2 ^ w)
    (hfixed : fixed.toNat % 2 ^ n = 0) (hlo : fixed.toNat ≤ v.toNat) (hhi : v.toNat < fixed.toNat + 2 ^ n) :
    fill fixed (v.setWidth n) = v := by
  apply BitVec.eq_of_toNat_eq
  rw [fill_toNat fixed _ h, BitVec.toNat_setWidth]
  obtain ⟨k, hk⟩ := Nat.exists_eq_add_of_le hlo
  rw [hk, Nat.add_mod, hfixed, Nat.zero_add, Nat.mod_mod, Nat.mod_eq_of_lt (by omega)]

/-! ### The shift register (R170 to R172) -/

theorem pushed_toNat (v : BitVec 16) (b : Byte) :
    (pushed v b).toNat = b.toNat * 256 + v.toNat / 256 := by
  have := v.isLt
  have h : v.toNat / 256 < 2 ^ 8 := by omega
  unfold pushed
  rw [BitVec.toNat_append, BitVec.extractLsb'_toNat, Nat.shiftRight_eq_div_pow, Nat.mod_eq_of_lt h,
    ← Nat.shiftLeft_add_eq_or_of_lt h, Nat.shiftLeft_eq]

theorem window_toNat (v : BitVec 16) (o : BitVec 3) :
    (window v o).toNat = v.toNat / 2 ^ (8 - o.toNat) % 256 := by
  simp [window, Nat.shiftRight_eq_div_pow]

theorem offsetOperand_toNat (b : Byte) : (offsetOperand b).toNat = b.toNat % 8 := by
  simp [offsetOperand]

/-! ### Single bits -/

/-- The bit written reads as written; the other seven are kept. -/
theorem readBit_writeBit (b : Byte) (i j : Fin 8) (v : Bool) :
    readBit (writeBit b i v) j = if i = j then v else readBit b j := by
  obtain ⟨i, hi⟩ := i
  obtain ⟨j, hj⟩ := j
  unfold readBit writeBit
  by_cases hij : i = j
  · subst hij; cases v <;> simp [hi]
  · have hji : j < i ∨ ¬j - i = 0 := by omega
    cases v
    · simp [hij, hj, hji]
    · simp only [if_true, BitVec.getLsbD_or, BitVec.getLsbD_shiftLeft, BitVec.getLsbD_one, Fin.mk.injEq, hij,
        if_false, Bool.or_eq_left_iff_imp]
      rcases hji with h | h <;> simp [h]

/-- Two bytes with the same bits are equal. -/
theorem byte_ext {b c : Byte} (h : ∀ i : Fin 8, readBit b i = readBit c i) : b = c :=
  BitVec.eq_of_getLsbD_eq fun i hi => h ⟨i, hi⟩

end Sys2Proof.Machine
end

