-- ==== Sys2Proof/Laws/Decode.lean ====
section
/-!
SUPPORT. What the decoder answers, by ranges of the selecting field: every value has a row, and the row is the
one of the region or port it lies in.
-/

namespace Sys2Proof

open Machine

/-- A row whose mask keeps all but the low `k` bits accepts the block of `2 ^ k` values from `lo` to `hi`. -/
theorem Row.accepts_block {w : Nat} {α : Type} (make : BitVec w → α) (mask bits : BitVec w) (k lo hi : Nat)
    (v : BitVec w) (hk : k ≤ w) (hmask : mask.toNat = 2 ^ w - 2 ^ k) (hlo : bits.toNat = lo)
    (hdvd : lo % 2 ^ k = 0) (hhi : lo + 2 ^ k = hi) :
    (Row.mk mask bits make).accepts v = decide (lo ≤ v.toNat ∧ v.toNat < hi) := by
  subst hlo hhi
  rw [Row.accepts, Bool.beq_eq_decide_eq]
  apply decide_eq_decide.2
  rw [accepts_iff_div k v mask bits hk hmask hdvd]
  have hpos := Nat.two_pow_pos k
  have hv := Nat.div_add_mod v.toNat (2 ^ k)
  have hb := Nat.div_add_mod bits.toNat (2 ^ k)
  have hlt := Nat.mod_lt v.toNat hpos
  rw [hdvd, Nat.add_zero] at hb
  constructor
  · intro h
    rw [h, hb] at hv
    omega
  · intro ⟨h1, h2⟩
    have h1' := Nat.div_le_div_right (c := 2 ^ k) h1
    have h2' : v.toNat / 2 ^ k < bits.toNat / 2 ^ k + 1 := by
      rw [Nat.div_lt_iff_lt_mul hpos, Nat.add_mul, Nat.mul_comm (bits.toNat / 2 ^ k), hb]
      omega
    omega

@[simp] theorem selectRow_cons {w : Nat} {α : Type} (r : Row w α) (rows : List (Row w α)) (v : BitVec w) :
    selectRow (r :: rows) v = if r.accepts v then some (r.make v) else selectRow rows v := rfl

@[simp] theorem orReject_some (e : DecodeError) (i : Instr) : orReject e (some i) = .ok i := rfl

/-- MEM_RD: the row of every address (R101, R108). -/
theorem decode_memRd (p : Params) (addr : Addr) :
    decode p (.memRd addr) = .ok (
      if addr.toNat < 0x2000 then .memrdRom (addr.setWidth 13)
      else if addr.toNat < 0x2400 then .memrdRam (addr.setWidth 10)
      else if addr.toNat < 0x2800 then .memrdVramA (addr.setWidth 10)
      else if addr.toNat < 0x3000 then .memrdVramB (addr.setWidth 11)
      else if addr.toNat < 0x4000 then .memrdVramC (addr.setWidth 12)
      else if addr.toNat < 0x8000 then .memrdMirrorA (addr.setWidth 14)
      else .memrdMirrorB (addr.setWidth 15)) := by
  have hlt := addr.isLt
  simp only [decode, memRdRows, selectRow_cons,
    Row.accepts_block _ 0xE000 0x0000 13 0x0000 0x2000 addr (by decide) (by decide) (by decide) (by decide) (by decide),
    Row.accepts_block _ 0xFC00 0x2000 10 0x2000 0x2400 addr (by decide) (by decide) (by decide) (by decide) (by decide),
    Row.accepts_block _ 0xFC00 0x2400 10 0x2400 0x2800 addr (by decide) (by decide) (by decide) (by decide) (by decide),
    Row.accepts_block _ 0xF800 0x2800 11 0x2800 0x3000 addr (by decide) (by decide) (by decide) (by decide) (by decide),
    Row.accepts_block _ 0xF000 0x3000 12 0x3000 0x4000 addr (by decide) (by decide) (by decide) (by decide) (by decide),
    Row.accepts_block _ 0xC000 0x4000 14 0x4000 0x8000 addr (by decide) (by decide) (by decide) (by decide) (by decide),
    Row.accepts_block _ 0x8000 0x8000 15 0x8000 0x10000 addr (by decide) (by decide) (by decide) (by decide) (by decide),
    decide_eq_true_eq]
  have hr : (0x0 ≤ addr.toNat ∧ addr.toNat < 0x2000) ∨
      (0x2000 ≤ addr.toNat ∧ addr.toNat < 0x2400) ∨
      (0x2400 ≤ addr.toNat ∧ addr.toNat < 0x2800) ∨
      (0x2800 ≤ addr.toNat ∧ addr.toNat < 0x3000) ∨
      (0x3000 ≤ addr.toNat ∧ addr.toNat < 0x4000) ∨
      (0x4000 ≤ addr.toNat ∧ addr.toNat < 0x8000) ∨
      (0x8000 ≤ addr.toNat ∧ addr.toNat < 0x10000) := by omega
  rcases hr with h | h | h | h | h | h | h <;>
    simp (disch := omega) only [if_pos, if_neg, orReject]

/-- MEM_WR: the row of every address (R101, R108). -/
theorem decode_memWr (p : Params) (addr : Addr) (data : Byte) :
    decode p (.memWr addr data) = .ok (
      if addr.toNat < 0x2000 then .memwrRom (addr.setWidth 13) data
      else if addr.toNat < 0x2400 then .memwrRam (addr.setWidth 10) data
      else if addr.toNat < 0x2800 then .memwrVramA (addr.setWidth 10) data
      else if addr.toNat < 0x3000 then .memwrVramB (addr.setWidth 11) data
      else if addr.toNat < 0x4000 then .memwrVramC (addr.setWidth 12) data
      else if addr.toNat < 0x4200 then .memwrWindow (addr.setWidth 9) data
      else if addr.toNat < 0x4400 then .memwrMirrorA (addr.setWidth 9) data
      else if addr.toNat < 0x4800 then .memwrMirrorB (addr.setWidth 10) data
      else if addr.toNat < 0x5000 then .memwrMirrorC (addr.setWidth 11) data
      else if addr.toNat < 0x6000 then .memwrMirrorD (addr.setWidth 12) data
      else if addr.toNat < 0x8000 then .memwrMirrorE (addr.setWidth 13) data
      else .memwrMirrorF (addr.setWidth 15) data) := by
  have hlt := addr.isLt
  simp only [decode, memWrRows, selectRow_cons,
    Row.accepts_block _ 0xE000 0x0000 13 0x0000 0x2000 addr (by decide) (by decide) (by decide) (by decide) (by decide),
    Row.accepts_block _ 0xFC00 0x2000 10 0x2000 0x2400 addr (by decide) (by decide) (by decide) (by decide) (by decide),
    Row.accepts_block _ 0xFC00 0x2400 10 0x2400 0x2800 addr (by decide) (by decide) (by decide) (by decide) (by decide),
    Row.accepts_block _ 0xF800 0x2800 11 0x2800 0x3000 addr (by decide) (by decide) (by decide) (by decide) (by decide),
    Row.accepts_block _ 0xF000 0x3000 12 0x3000 0x4000 addr (by decide) (by decide) (by decide) (by decide) (by decide),
    Row.accepts_block _ 0xFE00 0x4000 9 0x4000 0x4200 addr (by decide) (by decide) (by decide) (by decide) (by decide),
    Row.accepts_block _ 0xFE00 0x4200 9 0x4200 0x4400 addr (by decide) (by decide) (by decide) (by decide) (by decide),
    Row.accepts_block _ 0xFC00 0x4400 10 0x4400 0x4800 addr (by decide) (by decide) (by decide) (by decide) (by decide),
    Row.accepts_block _ 0xF800 0x4800 11 0x4800 0x5000 addr (by decide) (by decide) (by decide) (by decide) (by decide),
    Row.accepts_block _ 0xF000 0x5000 12 0x5000 0x6000 addr (by decide) (by decide) (by decide) (by decide) (by decide),
    Row.accepts_block _ 0xE000 0x6000 13 0x6000 0x8000 addr (by decide) (by decide) (by decide) (by decide) (by decide),
    Row.accepts_block _ 0x8000 0x8000 15 0x8000 0x10000 addr (by decide) (by decide) (by decide) (by decide) (by decide),
    decide_eq_true_eq]
  have hr : (0x0 ≤ addr.toNat ∧ addr.toNat < 0x2000) ∨
      (0x2000 ≤ addr.toNat ∧ addr.toNat < 0x2400) ∨
      (0x2400 ≤ addr.toNat ∧ addr.toNat < 0x2800) ∨
      (0x2800 ≤ addr.toNat ∧ addr.toNat < 0x3000) ∨
      (0x3000 ≤ addr.toNat ∧ addr.toNat < 0x4000) ∨
      (0x4000 ≤ addr.toNat ∧ addr.toNat < 0x4200) ∨
      (0x4200 ≤ addr.toNat ∧ addr.toNat < 0x4400) ∨
      (0x4400 ≤ addr.toNat ∧ addr.toNat < 0x4800) ∨
      (0x4800 ≤ addr.toNat ∧ addr.toNat < 0x5000) ∨
      (0x5000 ≤ addr.toNat ∧ addr.toNat < 0x6000) ∨
      (0x6000 ≤ addr.toNat ∧ addr.toNat < 0x8000) ∨
      (0x8000 ≤ addr.toNat ∧ addr.toNat < 0x10000) := by omega
  rcases hr with h | h | h | h | h | h | h | h | h | h | h | h <;>
    simp (disch := omega) only [if_pos, if_neg, orReject, Option.map]

/-- IO_IN: the row of every port id (R102, R108). -/
theorem decode_ioIn (p : Params) (port : PortId) :
    decode p (.ioIn port) = .ok (
      if port.toNat = 1 then .inP1
      else if port.toNat = 2 then .inP2
      else if port.toNat = 3 then .inShift
      else if port.toNat = 0 then .inUnknownA
      else if port.toNat < 0x08 then .inUnknownB (port.setWidth 2)
      else if port.toNat < 0x10 then .inUnknownC (port.setWidth 3)
      else if port.toNat < 0x20 then .inUnknownD (port.setWidth 4)
      else if port.toNat < 0x40 then .inUnknownE (port.setWidth 5)
      else if port.toNat < 0x80 then .inUnknownF (port.setWidth 6)
      else .inUnknownG (port.setWidth 7)) := by
  have hlt := port.isLt
  simp only [decode, ioInRows, selectRow_cons,
    Row.accepts_block _ 0xFF 0x01 0 0x01 0x02 port (by decide) (by decide) (by decide) (by decide) (by decide),
    Row.accepts_block _ 0xFF 0x02 0 0x02 0x03 port (by decide) (by decide) (by decide) (by decide) (by decide),
    Row.accepts_block _ 0xFF 0x03 0 0x03 0x04 port (by decide) (by decide) (by decide) (by decide) (by decide),
    Row.accepts_block _ 0xFF 0x00 0 0x00 0x01 port (by decide) (by decide) (by decide) (by decide) (by decide),
    Row.accepts_block _ 0xFC 0x04 2 0x04 0x08 port (by decide) (by decide) (by decide) (by decide) (by decide),
    Row.accepts_block _ 0xF8 0x08 3 0x08 0x10 port (by decide) (by decide) (by decide) (by decide) (by decide),
    Row.accepts_block _ 0xF0 0x10 4 0x10 0x20 port (by decide) (by decide) (by decide) (by decide) (by decide),
    Row.accepts_block _ 0xE0 0x20 5 0x20 0x40 port (by decide) (by decide) (by decide) (by decide) (by decide),
    Row.accepts_block _ 0xC0 0x40 6 0x40 0x80 port (by decide) (by decide) (by decide) (by decide) (by decide),
    Row.accepts_block _ 0x80 0x80 7 0x80 0x100 port (by decide) (by decide) (by decide) (by decide) (by decide),
    decide_eq_true_eq]
  have hr : port.toNat = 1 ∨
      port.toNat = 2 ∨
      port.toNat = 3 ∨
      port.toNat = 0 ∨
      (0x4 ≤ port.toNat ∧ port.toNat < 0x8) ∨
      (0x8 ≤ port.toNat ∧ port.toNat < 0x10) ∨
      (0x10 ≤ port.toNat ∧ port.toNat < 0x20) ∨
      (0x20 ≤ port.toNat ∧ port.toNat < 0x40) ∨
      (0x40 ≤ port.toNat ∧ port.toNat < 0x80) ∨
      (0x80 ≤ port.toNat ∧ port.toNat < 0x100) := by omega
  rcases hr with h | h | h | h | h | h | h | h | h | h <;>
    simp (disch := omega) only [if_pos, if_neg, orReject]

/-- An exact row accepts its own id alone. -/
theorem Row.accepts_exact {α : Type} (id : PortId) (make : PortId → α) (v : PortId) :
    (Row.mk 0xFF id make).accepts v = decide (v = id) := by
  rw [Row.accepts, Bool.beq_eq_decide_eq, show (0xFF : PortId) = BitVec.allOnes 8 from rfl, BitVec.and_allOnes]

/-- The rows of the decoded output ids, tested in the order of R200 before any other row. -/
theorem selectRow_ioOutIdRows (p : Params) (rows : List (Row 8 (Byte → Instr))) (port : PortId) :
    selectRow (ioOutIdRows p ++ rows) port =
      if port = p.outShiftOffset then some .outShiftOffset
      else if port = p.outShiftData then some .outShiftData
      else if port = p.outSoundA then some .outSoundA
      else if port = p.outSoundB then some .outSoundB
      else if port = p.outWatchdog then some .outWatchdog
      else selectRow rows port := by
  simp only [ioOutIdRows, List.cons_append, List.nil_append, selectRow_cons, Row.accepts_exact,
    decide_eq_true_eq]

/-- The rows of the undecoded output ids cover every id. -/
theorem selectRow_ioOutUnknownRows (port : PortId) :
    selectRow ioOutUnknownRows port = some (
      if port.toNat < 0x02 then .outUnknownA (port.setWidth 1)
      else if port.toNat < 0x08 then .outUnknownB port
      else if port.toNat < 0x10 then .outUnknownC (port.setWidth 3)
      else if port.toNat < 0x20 then .outUnknownD (port.setWidth 4)
      else if port.toNat < 0x40 then .outUnknownE (port.setWidth 5)
      else if port.toNat < 0x80 then .outUnknownF (port.setWidth 6)
      else .outUnknownG (port.setWidth 7)) := by
  have hlt := port.isLt
  simp only [ioOutUnknownRows, selectRow_cons,
    Row.accepts_block _ 0xFE 0x00 1 0x00 0x02 port (by decide) (by decide) (by decide) (by decide) (by decide),
    Row.accepts_block _ 0xFF 0x07 0 0x07 0x08 port (by decide) (by decide) (by decide) (by decide) (by decide),
    Row.accepts_block _ 0xF8 0x08 3 0x08 0x10 port (by decide) (by decide) (by decide) (by decide) (by decide),
    Row.accepts_block _ 0xF0 0x10 4 0x10 0x20 port (by decide) (by decide) (by decide) (by decide) (by decide),
    Row.accepts_block _ 0xE0 0x20 5 0x20 0x40 port (by decide) (by decide) (by decide) (by decide) (by decide),
    Row.accepts_block _ 0xC0 0x40 6 0x40 0x80 port (by decide) (by decide) (by decide) (by decide) (by decide),
    Row.accepts_block _ 0x80 0x80 7 0x80 0x100 port (by decide) (by decide) (by decide) (by decide) (by decide),
    Row.accepts_block _ 0xF8 0x00 3 0x00 0x08 port (by decide) (by decide) (by decide) (by decide) (by decide),
    decide_eq_true_eq]
  have hr : (0x0 ≤ port.toNat ∧ port.toNat < 0x2) ∨
      (0x2 ≤ port.toNat ∧ port.toNat < 0x7) ∨
      (0x7 ≤ port.toNat ∧ port.toNat < 0x8) ∨
      (0x8 ≤ port.toNat ∧ port.toNat < 0x10) ∨
      (0x10 ≤ port.toNat ∧ port.toNat < 0x20) ∨
      (0x20 ≤ port.toNat ∧ port.toNat < 0x40) ∨
      (0x40 ≤ port.toNat ∧ port.toNat < 0x80) ∨
      (0x80 ≤ port.toNat ∧ port.toNat < 0x100) := by omega
  rcases hr with h | h | h | h | h | h | h | h <;>
    simp (disch := omega) only [if_pos, if_neg]

/-- IO_OUT: the row of every port id, the decoded ids first (R103, R108). -/
theorem decode_ioOut (p : Params) (port : PortId) (data : Byte) :
    decode p (.ioOut port data) = .ok (
      if port = p.outShiftOffset then .outShiftOffset data
      else if port = p.outShiftData then .outShiftData data
      else if port = p.outSoundA then .outSoundA data
      else if port = p.outSoundB then .outSoundB data
      else if port = p.outWatchdog then .outWatchdog data
      else if port.toNat < 0x02 then .outUnknownA (port.setWidth 1) data
      else if port.toNat < 0x08 then .outUnknownB port data
      else if port.toNat < 0x10 then .outUnknownC (port.setWidth 3) data
      else if port.toNat < 0x20 then .outUnknownD (port.setWidth 4) data
      else if port.toNat < 0x40 then .outUnknownE (port.setWidth 5) data
      else if port.toNat < 0x80 then .outUnknownF (port.setWidth 6) data
      else .outUnknownG (port.setWidth 7) data) := by
  simp only [decode, ioOutRows, selectRow_ioOutIdRows, selectRow_ioOutUnknownRows,
    apply_ite (Option.map fun make : Byte → Instr => make data), Option.map_some,
    apply_ite (orReject (.noIoOutRow port)), orReject_some, apply_ite (fun make : Byte → Instr => make data),
    apply_ite (Except.ok (ε := DecodeError) (α := Instr))]

end Sys2Proof
end

