-- ==== Sys2Proof/Laws/PerInstr.lean ====
section
/-!
SUPPORT. The family RoundTrip: decoding what the encoder writes gives the instruction back, one lemma per
constructor of Instr.
-/

namespace Sys2Proof.Laws.RoundTrip

open Sys2Proof Machine

/-- Decoding the encoding of a well-formed instruction gives it back, under every admissible set of parameters.
(A micro-operation has no encoding, so nothing is asked of it.) -/
def Statement (i : Instr) : Prop :=
  ∀ p : Params, p.wf → i.wf p = true → ∀ r, encode p i = some r → decode p r = .ok i

/-- A MEM_RD or IO_IN row: its field decodes to it. -/
theorem of_encode {i : Instr} {req : Params → Request} (h : ∀ p, encode p i = some (req p))
    (hd : ∀ p : Params, p.wf → i.wf p = true → decode p (req p) = .ok i) : Statement i := by
  intro p hp hi r hr
  rw [h p, Option.some.injEq] at hr
  exact hr ▸ hd p hp hi

/-- The id of an undecoded port is none of the five. -/
theorem undecoded_ne {p : Params} {port : PortId} (h : p.undecodedOut port) :
    port ≠ p.outShiftOffset ∧ port ≠ p.outShiftData ∧ port ≠ p.outSoundA ∧ port ≠ p.outSoundB ∧
      port ≠ p.outWatchdog := by
  simpa [Params.undecodedOut, Params.outIds] using h

/-- Each decoded id differs from those tested before it. -/
theorem ids_ne {p : Params} (h : p.wf) :
    p.outShiftData ≠ p.outShiftOffset ∧
    (p.outSoundA ≠ p.outShiftOffset ∧ p.outSoundA ≠ p.outShiftData) ∧
    (p.outSoundB ≠ p.outShiftOffset ∧ p.outSoundB ≠ p.outShiftData ∧ p.outSoundB ≠ p.outSoundA) ∧
    (p.outWatchdog ≠ p.outShiftOffset ∧ p.outWatchdog ≠ p.outShiftData ∧ p.outWatchdog ≠ p.outSoundA ∧
      p.outWatchdog ≠ p.outSoundB) := by
  have hn := h.1
  simp only [Params.outIds, List.nodup_cons, List.mem_cons, List.not_mem_nil, or_false, not_or] at hn
  obtain ⟨⟨h1, h2, h3, h4⟩, ⟨h5, h6, h7⟩, ⟨h8, h9⟩, h10, -⟩ := hn
  exact ⟨Ne.symm h1, ⟨Ne.symm h2, Ne.symm h5⟩, ⟨Ne.symm h3, Ne.symm h6, Ne.symm h8⟩,
    Ne.symm h4, Ne.symm h7, Ne.symm h9, Ne.symm h10⟩

theorem memrdRom (a : BitVec 13) : Statement (.memrdRom a) :=
  of_encode (fun _ => rfl) fun p _ _ => by
    have hlt := a.isLt
    have hv := fill_toNat 0b0000000000000000#16 a (by decide)
    simp only [BitVec.toNat_ofNat, Nat.reduceMod, Nat.reducePow] at hv hlt
    rw [decode_memRd]
    simp (disch := omega) only [if_pos]
    rw [fill_setWidth 0b0000000000000000#16 a (by decide) (by decide)]

theorem memrdRam (a : BitVec 10) : Statement (.memrdRam a) :=
  of_encode (fun _ => rfl) fun p _ _ => by
    have hlt := a.isLt
    have hv := fill_toNat 0b0010000000000000#16 a (by decide)
    simp only [BitVec.toNat_ofNat, Nat.reduceMod, Nat.reducePow] at hv hlt
    rw [decode_memRd]
    simp (disch := omega) only [if_pos, if_neg]
    rw [fill_setWidth 0b0010000000000000#16 a (by decide) (by decide)]

theorem memrdVramA (a : BitVec 10) : Statement (.memrdVramA a) :=
  of_encode (fun _ => rfl) fun p _ _ => by
    have hlt := a.isLt
    have hv := fill_toNat 0b0010010000000000#16 a (by decide)
    simp only [BitVec.toNat_ofNat, Nat.reduceMod, Nat.reducePow] at hv hlt
    rw [decode_memRd]
    simp (disch := omega) only [if_pos, if_neg]
    rw [fill_setWidth 0b0010010000000000#16 a (by decide) (by decide)]

theorem memrdVramB (a : BitVec 11) : Statement (.memrdVramB a) :=
  of_encode (fun _ => rfl) fun p _ _ => by
    have hlt := a.isLt
    have hv := fill_toNat 0b0010100000000000#16 a (by decide)
    simp only [BitVec.toNat_ofNat, Nat.reduceMod, Nat.reducePow] at hv hlt
    rw [decode_memRd]
    simp (disch := omega) only [if_pos, if_neg]
    rw [fill_setWidth 0b0010100000000000#16 a (by decide) (by decide)]

theorem memrdVramC (a : BitVec 12) : Statement (.memrdVramC a) :=
  of_encode (fun _ => rfl) fun p _ _ => by
    have hlt := a.isLt
    have hv := fill_toNat 0b0011000000000000#16 a (by decide)
    simp only [BitVec.toNat_ofNat, Nat.reduceMod, Nat.reducePow] at hv hlt
    rw [decode_memRd]
    simp (disch := omega) only [if_pos, if_neg]
    rw [fill_setWidth 0b0011000000000000#16 a (by decide) (by decide)]

theorem memrdMirrorA (a : BitVec 14) : Statement (.memrdMirrorA a) :=
  of_encode (fun _ => rfl) fun p _ _ => by
    have hlt := a.isLt
    have hv := fill_toNat 0b0100000000000000#16 a (by decide)
    simp only [BitVec.toNat_ofNat, Nat.reduceMod, Nat.reducePow] at hv hlt
    rw [decode_memRd]
    simp (disch := omega) only [if_pos, if_neg]
    rw [fill_setWidth 0b0100000000000000#16 a (by decide) (by decide)]

theorem memrdMirrorB (a : BitVec 15) : Statement (.memrdMirrorB a) :=
  of_encode (fun _ => rfl) fun p _ _ => by
    have hlt := a.isLt
    have hv := fill_toNat 0b1000000000000000#16 a (by decide)
    simp only [BitVec.toNat_ofNat, Nat.reduceMod, Nat.reducePow] at hv hlt
    rw [decode_memRd]
    simp (disch := omega) only [if_neg]
    rw [fill_setWidth 0b1000000000000000#16 a (by decide) (by decide)]

theorem memwrRom (a : BitVec 13) (data : Byte) : Statement (.memwrRom a data) :=
  of_encode (fun _ => rfl) fun p _ _ => by
    have hlt := a.isLt
    have hv := fill_toNat 0b0000000000000000#16 a (by decide)
    simp only [BitVec.toNat_ofNat, Nat.reduceMod, Nat.reducePow] at hv hlt
    rw [decode_memWr]
    simp (disch := omega) only [if_pos]
    rw [fill_setWidth 0b0000000000000000#16 a (by decide) (by decide)]

theorem memwrRam (a : BitVec 10) (data : Byte) : Statement (.memwrRam a data) :=
  of_encode (fun _ => rfl) fun p _ _ => by
    have hlt := a.isLt
    have hv := fill_toNat 0b0010000000000000#16 a (by decide)
    simp only [BitVec.toNat_ofNat, Nat.reduceMod, Nat.reducePow] at hv hlt
    rw [decode_memWr]
    simp (disch := omega) only [if_pos, if_neg]
    rw [fill_setWidth 0b0010000000000000#16 a (by decide) (by decide)]

theorem memwrVramA (a : BitVec 10) (data : Byte) : Statement (.memwrVramA a data) :=
  of_encode (fun _ => rfl) fun p _ _ => by
    have hlt := a.isLt
    have hv := fill_toNat 0b0010010000000000#16 a (by decide)
    simp only [BitVec.toNat_ofNat, Nat.reduceMod, Nat.reducePow] at hv hlt
    rw [decode_memWr]
    simp (disch := omega) only [if_pos, if_neg]
    rw [fill_setWidth 0b0010010000000000#16 a (by decide) (by decide)]

theorem memwrVramB (a : BitVec 11) (data : Byte) : Statement (.memwrVramB a data) :=
  of_encode (fun _ => rfl) fun p _ _ => by
    have hlt := a.isLt
    have hv := fill_toNat 0b0010100000000000#16 a (by decide)
    simp only [BitVec.toNat_ofNat, Nat.reduceMod, Nat.reducePow] at hv hlt
    rw [decode_memWr]
    simp (disch := omega) only [if_pos, if_neg]
    rw [fill_setWidth 0b0010100000000000#16 a (by decide) (by decide)]

theorem memwrVramC (a : BitVec 12) (data : Byte) : Statement (.memwrVramC a data) :=
  of_encode (fun _ => rfl) fun p _ _ => by
    have hlt := a.isLt
    have hv := fill_toNat 0b0011000000000000#16 a (by decide)
    simp only [BitVec.toNat_ofNat, Nat.reduceMod, Nat.reducePow] at hv hlt
    rw [decode_memWr]
    simp (disch := omega) only [if_pos, if_neg]
    rw [fill_setWidth 0b0011000000000000#16 a (by decide) (by decide)]

theorem memwrWindow (a : BitVec 9) (data : Byte) : Statement (.memwrWindow a data) :=
  of_encode (fun _ => rfl) fun p _ _ => by
    have hlt := a.isLt
    have hv := fill_toNat 0b0100000000000000#16 a (by decide)
    simp only [BitVec.toNat_ofNat, Nat.reduceMod, Nat.reducePow] at hv hlt
    rw [decode_memWr]
    simp (disch := omega) only [if_pos, if_neg]
    rw [fill_setWidth 0b0100000000000000#16 a (by decide) (by decide)]

theorem memwrMirrorA (a : BitVec 9) (data : Byte) : Statement (.memwrMirrorA a data) :=
  of_encode (fun _ => rfl) fun p _ _ => by
    have hlt := a.isLt
    have hv := fill_toNat 0b0100001000000000#16 a (by decide)
    simp only [BitVec.toNat_ofNat, Nat.reduceMod, Nat.reducePow] at hv hlt
    rw [decode_memWr]
    simp (disch := omega) only [if_pos, if_neg]
    rw [fill_setWidth 0b0100001000000000#16 a (by decide) (by decide)]

theorem memwrMirrorB (a : BitVec 10) (data : Byte) : Statement (.memwrMirrorB a data) :=
  of_encode (fun _ => rfl) fun p _ _ => by
    have hlt := a.isLt
    have hv := fill_toNat 0b0100010000000000#16 a (by decide)
    simp only [BitVec.toNat_ofNat, Nat.reduceMod, Nat.reducePow] at hv hlt
    rw [decode_memWr]
    simp (disch := omega) only [if_pos, if_neg]
    rw [fill_setWidth 0b0100010000000000#16 a (by decide) (by decide)]

theorem memwrMirrorC (a : BitVec 11) (data : Byte) : Statement (.memwrMirrorC a data) :=
  of_encode (fun _ => rfl) fun p _ _ => by
    have hlt := a.isLt
    have hv := fill_toNat 0b0100100000000000#16 a (by decide)
    simp only [BitVec.toNat_ofNat, Nat.reduceMod, Nat.reducePow] at hv hlt
    rw [decode_memWr]
    simp (disch := omega) only [if_pos, if_neg]
    rw [fill_setWidth 0b0100100000000000#16 a (by decide) (by decide)]

theorem memwrMirrorD (a : BitVec 12) (data : Byte) : Statement (.memwrMirrorD a data) :=
  of_encode (fun _ => rfl) fun p _ _ => by
    have hlt := a.isLt
    have hv := fill_toNat 0b0101000000000000#16 a (by decide)
    simp only [BitVec.toNat_ofNat, Nat.reduceMod, Nat.reducePow] at hv hlt
    rw [decode_memWr]
    simp (disch := omega) only [if_pos, if_neg]
    rw [fill_setWidth 0b0101000000000000#16 a (by decide) (by decide)]

theorem memwrMirrorE (a : BitVec 13) (data : Byte) : Statement (.memwrMirrorE a data) :=
  of_encode (fun _ => rfl) fun p _ _ => by
    have hlt := a.isLt
    have hv := fill_toNat 0b0110000000000000#16 a (by decide)
    simp only [BitVec.toNat_ofNat, Nat.reduceMod, Nat.reducePow] at hv hlt
    rw [decode_memWr]
    simp (disch := omega) only [if_pos, if_neg]
    rw [fill_setWidth 0b0110000000000000#16 a (by decide) (by decide)]

theorem memwrMirrorF (a : BitVec 15) (data : Byte) : Statement (.memwrMirrorF a data) :=
  of_encode (fun _ => rfl) fun p _ _ => by
    have hlt := a.isLt
    have hv := fill_toNat 0b1000000000000000#16 a (by decide)
    simp only [BitVec.toNat_ofNat, Nat.reduceMod, Nat.reducePow] at hv hlt
    rw [decode_memWr]
    simp (disch := omega) only [if_neg]
    rw [fill_setWidth 0b1000000000000000#16 a (by decide) (by decide)]

theorem inP1 : Statement .inP1 :=
  of_encode (fun _ => rfl) fun _ _ _ => by rw [decode_ioIn]; rfl

theorem inP2 : Statement .inP2 :=
  of_encode (fun _ => rfl) fun _ _ _ => by rw [decode_ioIn]; rfl

theorem inShift : Statement .inShift :=
  of_encode (fun _ => rfl) fun _ _ _ => by rw [decode_ioIn]; rfl

theorem inUnknownA : Statement .inUnknownA :=
  of_encode (fun _ => rfl) fun _ _ _ => by rw [decode_ioIn]; rfl

theorem inUnknownB (p : BitVec 2) : Statement (.inUnknownB p) :=
  of_encode (fun _ => rfl) fun _ _ _ => by
    have hlt := p.isLt
    have hv := fill_toNat 0b00000100#8 p (by decide)
    simp only [BitVec.toNat_ofNat, Nat.reduceMod, Nat.reducePow] at hv hlt
    rw [decode_ioIn]
    simp (disch := omega) only [if_pos, if_neg]
    rw [fill_setWidth 0b00000100#8 p (by decide) (by decide)]

theorem inUnknownC (p : BitVec 3) : Statement (.inUnknownC p) :=
  of_encode (fun _ => rfl) fun _ _ _ => by
    have hlt := p.isLt
    have hv := fill_toNat 0b00001000#8 p (by decide)
    simp only [BitVec.toNat_ofNat, Nat.reduceMod, Nat.reducePow] at hv hlt
    rw [decode_ioIn]
    simp (disch := omega) only [if_pos, if_neg]
    rw [fill_setWidth 0b00001000#8 p (by decide) (by decide)]

theorem inUnknownD (p : BitVec 4) : Statement (.inUnknownD p) :=
  of_encode (fun _ => rfl) fun _ _ _ => by
    have hlt := p.isLt
    have hv := fill_toNat 0b00010000#8 p (by decide)
    simp only [BitVec.toNat_ofNat, Nat.reduceMod, Nat.reducePow] at hv hlt
    rw [decode_ioIn]
    simp (disch := omega) only [if_pos, if_neg]
    rw [fill_setWidth 0b00010000#8 p (by decide) (by decide)]

theorem inUnknownE (p : BitVec 5) : Statement (.inUnknownE p) :=
  of_encode (fun _ => rfl) fun _ _ _ => by
    have hlt := p.isLt
    have hv := fill_toNat 0b00100000#8 p (by decide)
    simp only [BitVec.toNat_ofNat, Nat.reduceMod, Nat.reducePow] at hv hlt
    rw [decode_ioIn]
    simp (disch := omega) only [if_pos, if_neg]
    rw [fill_setWidth 0b00100000#8 p (by decide) (by decide)]

theorem inUnknownF (p : BitVec 6) : Statement (.inUnknownF p) :=
  of_encode (fun _ => rfl) fun _ _ _ => by
    have hlt := p.isLt
    have hv := fill_toNat 0b01000000#8 p (by decide)
    simp only [BitVec.toNat_ofNat, Nat.reduceMod, Nat.reducePow] at hv hlt
    rw [decode_ioIn]
    simp (disch := omega) only [if_pos, if_neg]
    rw [fill_setWidth 0b01000000#8 p (by decide) (by decide)]

theorem inUnknownG (p : BitVec 7) : Statement (.inUnknownG p) :=
  of_encode (fun _ => rfl) fun _ _ _ => by
    have hlt := p.isLt
    have hv := fill_toNat 0b10000000#8 p (by decide)
    simp only [BitVec.toNat_ofNat, Nat.reduceMod, Nat.reducePow] at hv hlt
    rw [decode_ioIn]
    simp (disch := omega) only [if_neg]
    rw [fill_setWidth 0b10000000#8 p (by decide) (by decide)]

theorem outShiftOffset (data : Byte) : Statement (.outShiftOffset data) :=
  of_encode (fun _ => rfl) fun p _ _ => by
    rw [decode_ioOut, if_pos rfl]

theorem outSoundA (data : Byte) : Statement (.outSoundA data) :=
  of_encode (fun _ => rfl) fun p hp _ => by
    have hne := ids_ne hp
    rw [decode_ioOut]
    simp only [hne.2.1, if_false, if_true]

theorem outShiftData (data : Byte) : Statement (.outShiftData data) :=
  of_encode (fun _ => rfl) fun p hp _ => by
    have hne := ids_ne hp
    rw [decode_ioOut]
    simp only [hne.1, if_false, if_true]

theorem outSoundB (data : Byte) : Statement (.outSoundB data) :=
  of_encode (fun _ => rfl) fun p hp _ => by
    have hne := ids_ne hp
    rw [decode_ioOut]
    simp only [hne.2.2.1, if_false, if_true]

theorem outWatchdog (data : Byte) : Statement (.outWatchdog data) :=
  of_encode (fun _ => rfl) fun p hp _ => by
    have hne := ids_ne hp
    rw [decode_ioOut]
    simp only [hne.2.2.2, if_false, if_true]

theorem outUnknownA (p : BitVec 1) (data : Byte) : Statement (.outUnknownA p data) :=
  of_encode (fun _ => rfl) fun ps _ hw => by
    have hne := undecoded_ne (of_decide_eq_true hw)
    have hlt := p.isLt
    have hv := fill_toNat 0b00000000#8 p (by decide)
    simp only [BitVec.toNat_ofNat, Nat.reduceMod, Nat.reducePow] at hv hlt
    rw [decode_ioOut]
    simp only [hne, if_false]
    simp (disch := omega) only [if_pos]
    rw [fill_setWidth 0b00000000#8 p (by decide) (by decide)]

theorem outUnknownB (port : PortId) (data : Byte) : Statement (.outUnknownB port data) :=
  of_encode (fun _ => rfl) fun ps _ hw => by
    obtain ⟨h2, h7, hu⟩ := of_decide_eq_true hw
    have hne := undecoded_ne hu
    rw [decode_ioOut]
    simp only [hne, if_false]
    simp (disch := omega) only [if_pos, if_neg]

theorem outUnknownC (p : BitVec 3) (data : Byte) : Statement (.outUnknownC p data) :=
  of_encode (fun _ => rfl) fun ps _ hw => by
    have hne := undecoded_ne (of_decide_eq_true hw)
    have hlt := p.isLt
    have hv := fill_toNat 0b00001000#8 p (by decide)
    simp only [BitVec.toNat_ofNat, Nat.reduceMod, Nat.reducePow] at hv hlt
    rw [decode_ioOut]
    simp only [hne, if_false]
    simp (disch := omega) only [if_pos, if_neg]
    rw [fill_setWidth 0b00001000#8 p (by decide) (by decide)]

theorem outUnknownD (p : BitVec 4) (data : Byte) : Statement (.outUnknownD p data) :=
  of_encode (fun _ => rfl) fun ps _ hw => by
    have hne := undecoded_ne (of_decide_eq_true hw)
    have hlt := p.isLt
    have hv := fill_toNat 0b00010000#8 p (by decide)
    simp only [BitVec.toNat_ofNat, Nat.reduceMod, Nat.reducePow] at hv hlt
    rw [decode_ioOut]
    simp only [hne, if_false]
    simp (disch := omega) only [if_pos, if_neg]
    rw [fill_setWidth 0b00010000#8 p (by decide) (by decide)]

theorem outUnknownE (p : BitVec 5) (data : Byte) : Statement (.outUnknownE p data) :=
  of_encode (fun _ => rfl) fun ps _ hw => by
    have hne := undecoded_ne (of_decide_eq_true hw)
    have hlt := p.isLt
    have hv := fill_toNat 0b00100000#8 p (by decide)
    simp only [BitVec.toNat_ofNat, Nat.reduceMod, Nat.reducePow] at hv hlt
    rw [decode_ioOut]
    simp only [hne, if_false]
    simp (disch := omega) only [if_pos, if_neg]
    rw [fill_setWidth 0b00100000#8 p (by decide) (by decide)]

theorem outUnknownF (p : BitVec 6) (data : Byte) : Statement (.outUnknownF p data) :=
  of_encode (fun _ => rfl) fun ps _ hw => by
    have hne := undecoded_ne (of_decide_eq_true hw)
    have hlt := p.isLt
    have hv := fill_toNat 0b01000000#8 p (by decide)
    simp only [BitVec.toNat_ofNat, Nat.reduceMod, Nat.reducePow] at hv hlt
    rw [decode_ioOut]
    simp only [hne, if_false]
    simp (disch := omega) only [if_pos, if_neg]
    rw [fill_setWidth 0b01000000#8 p (by decide) (by decide)]

theorem outUnknownG (p : BitVec 7) (data : Byte) : Statement (.outUnknownG p data) :=
  of_encode (fun _ => rfl) fun ps _ hw => by
    have hne := undecoded_ne (of_decide_eq_true hw)
    have hlt := p.isLt
    have hv := fill_toNat 0b10000000#8 p (by decide)
    simp only [BitVec.toNat_ofNat, Nat.reduceMod, Nat.reducePow] at hv hlt
    rw [decode_ioOut]
    simp only [hne, if_false]
    simp (disch := omega) only [if_neg]
    rw [fill_setWidth 0b10000000#8 p (by decide) (by decide)]

theorem evtCoin (pressed : Bool) : Statement (.evtCoin pressed) :=
  of_encode (fun _ => rfl) fun _ _ _ => rfl

theorem evtTilt (pressed : Bool) : Statement (.evtTilt pressed) :=
  of_encode (fun _ => rfl) fun _ _ _ => rfl

theorem evtP1Start (pressed : Bool) : Statement (.evtP1Start pressed) :=
  of_encode (fun _ => rfl) fun _ _ _ => rfl

theorem evtP1Shoot (pressed : Bool) : Statement (.evtP1Shoot pressed) :=
  of_encode (fun _ => rfl) fun _ _ _ => rfl

theorem evtP1Left (pressed : Bool) : Statement (.evtP1Left pressed) :=
  of_encode (fun _ => rfl) fun _ _ _ => rfl

theorem evtP1Right (pressed : Bool) : Statement (.evtP1Right pressed) :=
  of_encode (fun _ => rfl) fun _ _ _ => rfl

theorem evtP2Start (pressed : Bool) : Statement (.evtP2Start pressed) :=
  of_encode (fun _ => rfl) fun _ _ _ => rfl

theorem evtP2Shoot (pressed : Bool) : Statement (.evtP2Shoot pressed) :=
  of_encode (fun _ => rfl) fun _ _ _ => rfl

theorem evtP2Left (pressed : Bool) : Statement (.evtP2Left pressed) :=
  of_encode (fun _ => rfl) fun _ _ _ => rfl

theorem evtP2Right (pressed : Bool) : Statement (.evtP2Right pressed) :=
  of_encode (fun _ => rfl) fun _ _ _ => rfl

theorem cfgLives (n : Nat) : Statement (.cfgLives n) :=
  of_encode (fun _ => rfl) fun _ _ _ => rfl

theorem cfgCoininfo (b : Bool) : Statement (.cfgCoininfo b) :=
  of_encode (fun _ => rfl) fun _ _ _ => rfl

theorem cfgBonus (b : Bool) : Statement (.cfgBonus b) :=
  of_encode (fun _ => rfl) fun _ _ _ => rfl

theorem livesQ : Statement .livesQ :=
  of_encode (fun _ => rfl) fun _ _ _ => rfl

theorem bonusQ : Statement .bonusQ :=
  of_encode (fun _ => rfl) fun _ _ _ => rfl

theorem frame : Statement .frame :=
  of_encode (fun _ => rfl) fun _ _ _ => rfl

theorem srPush (b : Byte) : Statement (.srPush b) :=
  fun _ _ _ _ hr => nomatch hr

theorem srRead : Statement .srRead :=
  fun _ _ _ _ hr => nomatch hr

theorem srSetOffset (b : Byte) : Statement (.srSetOffset b) :=
  fun _ _ _ _ hr => nomatch hr

end Sys2Proof.Laws.RoundTrip
end

