-- ==== Sys2Proof/Machine/Engine.lean ====
section
/-!
DEFINITION. The engine as an argument of the model, and FRAME as the spec's own procedure over it (R245, R250).

The machine of Step.lean takes the engine's moves from `State.inputs`, one at a time, and so admits every
engine. This file is the other view: an engine with a hidden state, what it does in one call, and FRAME
written line by line as R250 writes it. Obligations relate the two (log 12).
-/

namespace Sys2Proof.Machine

/-- What an engine does in one call: any finite sequence of transactions, each taking effect at once, then its
result or a fault of its own (R245). A transaction that faults ends the call (R247), so only the byte of a
read is handed on. -/
inductive Activity (ρ : Type) where
  | memRead (addr : Addr) (next : Byte → Activity ρ)
  | memWrite (addr : Addr) (data : Byte) (next : Activity ρ)
  | portIn (port : PortId) (next : Byte → Activity ρ)
  | portOut (port : PortId) (data : Byte) (next : Activity ρ)
  | returns (r : ρ)
  | fails (payload : Nat)

/-- The engine: "an abstract capability {step() -> cycles or Fault, raise_interrupt(kind) -> Ok or Fault}"
(R244), with a hidden state that is no state of the block (R34). -/
structure Engine where
  Hidden : Type
  step : Hidden → Activity (Nat × Hidden)
  raiseInterrupt : Interrupt → Hidden → Activity Hidden

/-- One engine call served by the router and the port controller: its result, and the block's state after it
(R245, R247). -/
def Activity.serve {ρ : Type} : Activity ρ → State → Except CallFault ρ × State
  | .memRead addr next, s =>
    match s.memRead addr with
    | .ok b => (next b).serve s
    | .error f => (.error (.router f), s)
  | .memWrite addr data next, s =>
    match s.memWrite addr data with
    | .ok t => next.serve t
    | .error f => (.error (.router f), s)
  | .portIn port next, s => (next (s.portIn port)).serve s
  | .portOut port data next, s => next.serve (s.portOut port data)
  | .returns r, s => (.ok r, s)
  | .fails payload, s => (.error (.engineFault payload), s)

/-- `while CYC < threshold: Step()` (R250), looked at for at most `fuel` steps: `none` says that the loop is
still running then. The fuel is the observer's and not the block's (R256). -/
def Engine.loop (e : Engine) (threshold : Nat) :
    Nat → e.Hidden → State → Option (Except CallFault e.Hidden × State)
  | 0, h, s => if s.cyc < threshold then none else some (.ok h, s)
  | fuel + 1, h, s =>
    if s.cyc < threshold then
      match (e.step h).serve s with
      | (.ok (cycles, h'), t) => e.loop threshold fuel h' (t.addCycles cycles)
      | (.error f, t) => some (.error f, t)
    else some (.ok h, s)

/-- FRAME as R250 writes it, its first loop looked at for at most `n1` steps and its second for at most `n2`.
The host has the result in `result`, and the engine its state after the FRAME if it returned Ok. -/
def Engine.frame (e : Engine) (n1 n2 : Nat) (h : e.Hidden) (s : State) : Option (Option e.Hidden × State) :=
  match e.loop s.doneThreshold n1 h (s.returns .nothing) with
  | none => none
  | some (.error f, t) => some (none, t.die (.ofStep f))
  | some (.ok h1, t1) =>
    match (e.raiseInterrupt .mid h1).serve t1 with
    | (.error f, t) => some (none, t.die (.interruptDeliveryFault .mid f))
    | (.ok h2, t2) =>
      match e.loop s.midThreshold n2 h2 t2 with
      | none => none
      | some (.error f, t) => some (none, t.die (.ofStep f))
      | some (.ok h3, t3) =>
        match (e.raiseInterrupt .vblank h3).serve t3 with
        | (.error f, t) => some (none, t.die (.interruptDeliveryFault .vblank f))
        | (.ok h4, t4) => some (some h4, t4.finishFrame)

/-- `n` FRAME commands one after another, each of which returned Ok, with at most `fuel` steps in a loop. -/
def Engine.frames (e : Engine) (fuel : Nat) : Nat → e.Hidden → State → Option (e.Hidden × State)
  | 0, h, s => some (h, s)
  | n + 1, h, s =>
    match e.frame fuel fuel h s with
    | some (some h', t) => e.frames fuel n h' t
    | _ => none

end Sys2Proof.Machine
end

