-- ==== Sys2Proof/Machine/Session.lean ====
section
/-!
DEFINITION. Construction of a session, which is the block's only reset (R320 to R322), and its end (R321).
-/

namespace Sys2Proof.Machine

/-- The state at the end of construction for these parameters, ROM image and frame buffer (R40, R320). -/
def State.constructed (p : Params) (rom vram : List Byte) : State where
  params := p
  mem := Memory.image Bank.rom.base rom ++ Memory.image Bank.videoFrame.base vram
  srValue := p.srResetValue
  srOffset := p.srResetOffset
  p1 := p.port1Reset
  p2 := p.port2Base
  cyc := p.cycReset
  frm := 1
  status := .live
  frame := none
  constructing := true
  result := .nothing
  inputs := []

/-- Construction: four ROM segments in order and the host's frame buffer. A segment that is not 2048 bytes, a
buffer that is not 7168 bytes, or parameters outside their constraint make no session (R322, R10; log 30). The
straps are operations of their own (CFG.*), applied before the first other operation (R235). -/
def State.construct (p : Params) (seg0 seg1 seg2 seg3 vram : List Byte) : Option State :=
  if p.wf ∧ seg0.length = romSegmentSize ∧ seg1.length = romSegmentSize ∧ seg2.length = romSegmentSize ∧
      seg3.length = romSegmentSize ∧ vram.length = Bank.videoFrame.size then
    some (State.constructed p (seg0 ++ seg1 ++ seg2 ++ seg3) vram)
  else none

/-- A new session by a host that hands over the same buffer: it inherits the bytes of the frame buffer and
nothing else (R294, R321). A session ends between FRAME commands only, so while one is in progress there is
none (R330, R331). -/
def State.newSession (old : State) (p : Params) (seg0 seg1 seg2 seg3 : List Byte) : Option State :=
  old.frameBuffer.bind (State.construct p seg0 seg1 seg2 seg3)

end Sys2Proof.Machine
end

