-- ==== Sys2Proof/Safety.lean ====
section
/-!
DEFINITION. The invariant of the block (R39) and what counts as a safe run.
-/

namespace Sys2Proof.Machine

/-- A FRAME in progress is where R250 puts it: its thresholds are those of the frame counter (R242), its
outstanding call is the one the comparator asks for (R243), and in the second phase the first threshold has
been met (R33). -/
structure FrameRun.Consistent (s : State) (fr : FrameRun) : Prop where
  done : fr.done = s.doneThreshold
  mid : fr.mid = s.midThreshold
  call : fr.call = nextCall s.cyc fr.phase fr.done fr.mid
  doneMet : fr.phase = .toMid → fr.done ≤ s.cyc

/-- The bits of P1 that no event writes, and of P2 that neither an event nor a strap writes, hold their reset
values (R39 item 3). -/
structure State.UnmappedBitsKept (s : State) : Prop where
  p1 : ∀ i : Fin 8, (⟨.port1, i⟩ : PortBit) ∉ Event.all.map s.params.eventMap.get →
    readBit s.p1 i = readBit s.params.port1Reset i
  p2 : ∀ i : Fin 8, i ∉ s.params.configBits →
    (⟨.port2, i⟩ : PortBit) ∉ Event.all.map s.params.eventMap.get →
    readBit s.p2 i = readBit s.params.port2Base i

/-- The invariant of the block. -/
structure State.Inv (s : State) : Prop where
  /-- The parameters meet their constraint (R10). -/
  params : s.params.wf
  /-- Memory is in canonical form, with no byte at an address without storage (R24). -/
  mem : s.mem.wf
  /-- `FRM ≥ 1` (R39 item 6). -/
  frm : 1 ≤ s.frm
  /-- After a FRAME that returned Ok, CYC is at or past that frame's `mid` (R39 item 7). -/
  counters : 2 ≤ s.frm →
    (s.frm - 1) * s.params.fullFrameBudget + s.params.halfFrameBudget ≤ s.cyc
  /-- A FRAME in progress is consistent (R33, R242, R243). -/
  frame : ∀ fr, s.frame = some fr → fr.Consistent s
  /-- A fatal error ends the FRAME (R250). -/
  dead : s.status ≠ .live → s.frame = none
  /-- Construction is over once a FRAME has begun or an error has been met (R105). -/
  construction : s.constructing = true → s.frame = none ∧ s.status = .live
  /-- Unmapped bits keep their reset values (R39 item 3). -/
  unmapped : s.UnmappedBitsKept

/-- A run of `n` steps is safe if it is stopped neither by a fault nor by a refusal and leaves the session
live (R32). -/
def State.SafeRun (n : Nat) (s : State) : Prop :=
  ∃ t, Sys2Proof.core.run n s = .next t ∧ t.status = .live

end Sys2Proof.Machine
end

