-- ==== Sys2Proof/Certificates/Slice0/Obligations.lean ====
section
/-!
DEFINITION. The statements for the provers.

`result` and `constructing` are the model's own fields: what the last operation returned (R14), and that only
straps have been performed so far (R105). A next state written `{ s with … }` is the frame too: every field
that is not named keeps its value.
-/

open Sys2Proof Sys2Proof.Machine

/-! ### Construction and reset -/

/-- R40, R21 to R23: the state at the end of construction, for every parameter record, ROM image and frame
buffer of the right sizes (no strap applied; the straps are operations of their own). -/
def Obligations.ConstructionGivesTheResetTable : Prop :=
  ∀ (p : Params) (seg0 seg1 seg2 seg3 vram : List Byte), p.wf → seg0.length = 2048 → seg1.length = 2048 →
    seg2.length = 2048 → seg3.length = 2048 → vram.length = 7168 →
    ∃ s, State.construct p seg0 seg1 seg2 seg3 vram = some s ∧
      (∀ i, i < 2048 → seg0[i]? = some (s.bankByte .rom i)) ∧
      (∀ i, i < 2048 → seg1[i]? = some (s.bankByte .rom (2048 + i))) ∧
      (∀ i, i < 2048 → seg2[i]? = some (s.bankByte .rom (4096 + i))) ∧
      (∀ i, i < 2048 → seg3[i]? = some (s.bankByte .rom (6144 + i))) ∧
      (∀ i, i < 1024 → s.bankByte .ram i = 0x00) ∧
      (∀ i, i < 7168 → vram[i]? = some (s.bankByte .videoFrame i)) ∧
      s.params = p ∧ s.srValue = p.srResetValue ∧ s.srOffset = p.srResetOffset ∧ s.p1 = p.port1Reset ∧
      s.p2 = p.port2Base ∧ s.cyc = p.cycReset ∧ s.frm = 1 ∧ s.status = .live ∧ s.frame = none ∧ s.mem.wf

/-- R322: a segment that is not 2048 bytes, or a buffer that is not 7168 bytes, makes no session. -/
def Obligations.ConstructionRefusesWrongSizes : Prop :=
  ∀ (p : Params) (seg0 seg1 seg2 seg3 vram : List Byte),
    ¬(seg0.length = 2048 ∧ seg1.length = 2048 ∧ seg2.length = 2048 ∧ seg3.length = 2048 ∧
      vram.length = 7168) →
    State.construct p seg0 seg1 seg2 seg3 vram = none

/-- The model's choice (log 11): `State.reset` is construction with the default parameters, a ROM image of
zeros and a frame buffer of zeros. -/
def Obligations.ResetIsAConstruction : Prop :=
  State.construct Params.default (List.replicate 2048 0) (List.replicate 2048 0) (List.replicate 2048 0)
    (List.replicate 2048 0) (List.replicate 7168 0) = some State.reset

/-- R321: a new session on the same buffer inherits the bytes of the buffer and nothing else; two sessions
with the same buffer bytes give the same new session, whatever else they hold. R330, R331: while a FRAME is in
progress a session does not end, and there is no new one on its buffer. -/
def Obligations.NewSessionInheritsOnlyTheBuffer : Prop :=
  ∀ (old other : State) (p : Params) (seg0 seg1 seg2 seg3 : List Byte) (t : State),
    old.newSession p seg0 seg1 seg2 seg3 = some t →
    old.frame = none ∧
    (∀ i, i < 7168 → t.bankByte .videoFrame i = old.bankByte .videoFrame i) ∧
    (∀ i, i < 1024 → t.bankByte .ram i = 0x00) ∧
    t.status = .live ∧ t.frame = none ∧ t.cyc = p.cycReset ∧ t.frm = 1 ∧
    (other.frame = none →
      (∀ i, i < 7168 → other.bankByte .videoFrame i = old.bankByte .videoFrame i) →
      other.newSession p seg0 seg1 seg2 seg3 = some t)

/-- R332, R66, R23: between FRAME commands, on a live session or a dead one, the host's view of the frame buffer
has 7168 bytes, and its index i is the byte at memory address 0x2400 + i. R331: while a FRAME is in progress the
host does not read it. -/
def Obligations.FrameBufferViewsTheVideoBank : Prop :=
  ∀ s : State,
    (s.frame = none → ∃ bytes, s.frameBuffer = some bytes ∧ bytes.length = 7168 ∧
      ∀ i, i < 7168 → bytes[i]? = some (s.mem.read (0x2400 + i))) ∧
    (∀ fr, s.frame = some fr → s.frameBuffer = none)

/-! ### Memory reads -/

/-- The five MEM_RD rows of banks with storage complete, and return the byte of the bank's array (R143 to
R145, R66); a read changes nothing but the result. -/
def Obligations.BankReadsReturnTheByte : Prop :=
  ∀ s : State, s.status = .live →
    (∀ a, exec (.memrdRom a) s =
      .next { s with result := .byte (s.bankByte .rom a.toNat), constructing := false }) ∧
    (∀ a, exec (.memrdRam a) s =
      .next { s with result := .byte (s.bankByte .ram a.toNat), constructing := false }) ∧
    (∀ a, exec (.memrdVramA a) s =
      .next { s with result := .byte (s.bankByte .videoFrame a.toNat), constructing := false }) ∧
    (∀ a, exec (.memrdVramB a) s =
      .next { s with result := .byte (s.bankByte .videoFrame (0x400 + a.toNat)), constructing := false }) ∧
    (∀ a, exec (.memrdVramC a) s =
      .next { s with result := .byte (s.bankByte .videoFrame (0xC00 + a.toNat)), constructing := false })

/-- R146: the two MEMRD.MIRROR rows always fault, with the direction and the address; with no FRAME in
progress that is the transaction's result and no byte of state changes. (Inside a FRAME see
`RouterFaultEndsTheFrame`.) -/
def Obligations.MirrorReadsFault : Prop :=
  ∀ s : State, s.status = .live → s.frame = none →
    (∀ a, exec (.memrdMirrorA a) s = .next { s with
      result := .fault (.unmappedAccess (.read (BitVec.ofNat 16 (0x4000 + a.toNat)))),
      constructing := false }) ∧
    (∀ a, exec (.memrdMirrorB a) s = .next { s with
      result := .fault (.unmappedAccess (.read (BitVec.ofNat 16 (0x8000 + a.toNat)))),
      constructing := false })

/-- R140: MEMRD is the total function of R140's four-way comparison. For every address the decoder gives a
row, and the row's meaning returns what the comparison says: the byte, or the fault handed to the issuer. -/
def Obligations.DecodedReadFollowsTheAddressMap : Prop :=
  ∀ (s : State) (addr : Addr), s.status = .live →
    ∃ i, decode s.params (.memRd addr) = .ok i ∧
      exec i s = .next (
        if addr.toNat < 0x2000 then s.returns (.byte (s.bankByte .rom addr.toNat))
        else if addr.toNat < 0x2400 then s.returns (.byte (s.bankByte .ram (addr.toNat - 0x2000)))
        else if addr.toNat < 0x4000 then s.returns (.byte (s.bankByte .videoFrame (addr.toNat - 0x2400)))
        else s.routerFault (.unmappedAccess (.read addr)))

/-! ### Memory writes -/

/-- The four MEM_WR rows of RAM and VRAM complete, store the byte at their address and return Ok (R151,
R152). -/
def Obligations.BankWritesStoreTheByte : Prop :=
  ∀ s : State, s.status = .live →
    (∀ a d, exec (.memwrRam a d) s =
      .next { s with mem := s.mem.write (0x2000 + a.toNat) d, result := .ok, constructing := false }) ∧
    (∀ a d, exec (.memwrVramA a d) s =
      .next { s with mem := s.mem.write (0x2400 + a.toNat) d, result := .ok, constructing := false }) ∧
    (∀ a d, exec (.memwrVramB a d) s =
      .next { s with mem := s.mem.write (0x2800 + a.toNat) d, result := .ok, constructing := false }) ∧
    (∀ a d, exec (.memwrVramC a d) s =
      .next { s with mem := s.mem.write (0x3000 + a.toNat) d, result := .ok, constructing := false })

/-- The byte a store writes, and every other byte of memory: the frame of the four storing rows, at the address
each row stores to. Canonical memory is the invariant `State.Inv.mem`. -/
def Obligations.StoresChangeOneByte : Prop :=
  ∀ (s t : State) (d : Byte), s.mem.wf →
    ∀ i addr, ((∃ a : BitVec 10, i = .memwrRam a d ∧ addr = 0x2000 + a.toNat) ∨
        (∃ a : BitVec 10, i = .memwrVramA a d ∧ addr = 0x2400 + a.toNat) ∨
        (∃ a : BitVec 11, i = .memwrVramB a d ∧ addr = 0x2800 + a.toNat) ∨
        (∃ a : BitVec 12, i = .memwrVramC a d ∧ addr = 0x3000 + a.toNat)) →
      exec i s = .next t →
        t.mem.read addr = d ∧ t.mem.wf ∧ ∀ b, b ≠ addr → t.mem.read b = s.mem.read b

/-- R150: a write to ROM always faults, carrying the address and the byte, and stores nothing. -/
def Obligations.RomWriteFaults : Prop :=
  ∀ s : State, s.status = .live → s.frame = none →
    ∀ (a : BitVec 13) (d : Byte), exec (.memwrRom a d) s = .next { s with
      result := .fault (.illegalWrite (BitVec.ofNat 16 a.toNat) d), constructing := false }

/-- R153: a write to the window returns Ok and changes no state element, whether or not a FRAME is in progress;
a later read of the same address still faults. -/
def Obligations.WindowWriteIsIgnored : Prop :=
  ∀ s : State, s.status = .live → ∀ (a : BitVec 9) (d : Byte),
    exec (.memwrWindow a d) s = .next { s with result := .ok, constructing := false } ∧
    (∀ t, exec (.memwrWindow a d) s = .next t →
      t.memRead (BitVec.ofNat 16 (0x4000 + a.toNat)) =
        .error (.unmappedAccess (.read (BitVec.ofNat 16 (0x4000 + a.toNat)))))

/-- R154: the six MEMWR.MIRROR rows always fault, with the direction, the address and the byte, and store
nothing. -/
def Obligations.MirrorWritesFault : Prop :=
  ∀ s : State, s.status = .live → s.frame = none →
    ∀ i addr (d : Byte), ((∃ a : BitVec 9, i = .memwrMirrorA a d ∧ addr = 0x4200 + a.toNat) ∨
        (∃ a : BitVec 10, i = .memwrMirrorB a d ∧ addr = 0x4400 + a.toNat) ∨
        (∃ a : BitVec 11, i = .memwrMirrorC a d ∧ addr = 0x4800 + a.toNat) ∨
        (∃ a : BitVec 12, i = .memwrMirrorD a d ∧ addr = 0x5000 + a.toNat) ∨
        (∃ a : BitVec 13, i = .memwrMirrorE a d ∧ addr = 0x6000 + a.toNat) ∨
        (∃ a : BitVec 15, i = .memwrMirrorF a d ∧ addr = 0x8000 + a.toNat)) →
      exec i s = .next { s with
        result := .fault (.unmappedAccess (.write (BitVec.ofNat 16 addr) d)), constructing := false }

/-- R141: MEMWR is the total function of R141's comparison, the window tested first. -/
def Obligations.DecodedWriteFollowsTheAddressMap : Prop :=
  ∀ (s : State) (addr : Addr) (v : Byte), s.status = .live →
    ∃ i, decode s.params (.memWr addr v) = .ok i ∧
      exec i s = .next (
        if 0x4000 ≤ addr.toNat ∧ addr.toNat < 0x4200 then s.returns .ok
        else if addr.toNat < 0x2000 then s.routerFault (.illegalWrite addr v)
        else if addr.toNat < 0x2400 then (s.setBankByte .ram (addr.toNat - 0x2000) v).returns .ok
        else if addr.toNat < 0x4000 then (s.setBankByte .videoFrame (addr.toNat - 0x2400) v).returns .ok
        else s.routerFault (.unmappedAccess (.write addr v)))

/-- R160: read after write. A write to RAM or VRAM is what the next read of the address returns, and no write
changes what a read of any other address returns; a write outside [0x2000, 0x4000) changes no read at all. -/
def Obligations.ReadAfterWrite : Prop :=
  ∀ (s t : State) (a b : Addr) (v : Byte) (i : Instr), s.mem.wf →
    decode s.params (.memWr a v) = .ok i → exec i s = .next t →
      (0x2000 ≤ a.toNat ∧ a.toNat < 0x4000 → t.memRead a = .ok v) ∧
      (¬(0x2000 ≤ a.toNat ∧ a.toNat < 0x4000) → t.memRead b = s.memRead b) ∧
      (b ≠ a → t.memRead b = s.memRead b)

/-- Only a store changes memory: if a step changes the byte at an address, the move it made was a MEMWR of that
byte to that address, which lies in RAM or VRAM (R161, R332, R21), inside an engine call of a FRAME in progress:
the host writes no byte, and between FRAME commands nothing does (R297, R82). -/
def Obligations.OnlyAStoreChangesMemory : Prop :=
  ∀ (s t : State) (a : Nat), s.mem.wf → step s = .next t → t.mem.read a ≠ s.mem.read a →
    0x2000 ≤ a ∧ a < 0x4000 ∧ s.frame ≠ none ∧
      ∃ rest, s.inputs = .op (.memWr (BitVec.ofNat 16 a) (t.mem.read a)) :: rest

/-- R21, R39 item 4: no step changes a byte of ROM. -/
def Obligations.RomNeverChanges : Prop :=
  ∀ (s t : State) (i : Nat), i < 8192 → step s = .next t → t.bankByte .rom i = s.bankByte .rom i

/-! ### The shift register -/

/-- R170, R201: SR.push and OUT to the shift-data port make the byte the high byte and the old high byte the
low one; SR.offset is kept. -/
def Obligations.PushShiftsTheByteIn : Prop :=
  ∀ (s : State) (b : Byte), s.status = .live →
    ∃ v : BitVec 16, v.toNat = b.toNat * 256 + s.srValue.toNat / 256 ∧
      exec (.srPush b) s = .next { s with srValue := v, result := .nothing, constructing := false } ∧
      exec (.outShiftData b) s = .next { s with srValue := v, result := .nothing, constructing := false }

/-- R172, R202: SR.set_offset and OUT to the shift-offset port keep the low three bits of the byte; SR.value is
kept. -/
def Obligations.SetOffsetKeepsThreeBits : Prop :=
  ∀ (s : State) (b : Byte), s.status = .live →
    ∃ o : BitVec 3, o.toNat = b.toNat % 8 ∧
      exec (.srSetOffset b) s = .next { s with srOffset := o, result := .nothing, constructing := false } ∧
      exec (.outShiftOffset b) s = .next { s with srOffset := o, result := .nothing, constructing := false }

/-- R171, R193: SR.read and IN 3 return `(value >> (8 − offset)) & 0xFF`, which is bits 15 − offset down to
8 − offset of the value and the high byte of `value << offset`; they change nothing but the result. -/
def Obligations.ShiftReadReturnsTheWindow : Prop :=
  ∀ s : State, s.status = .live →
    ∃ b : Byte, b.toNat = s.srValue.toNat / 2 ^ (8 - s.srOffset.toNat) % 256 ∧
      b = s.srValue.extractLsb' (8 - s.srOffset.toNat) 8 ∧
      b = (s.srValue <<< s.srOffset.toNat).extractLsb' 8 8 ∧
      exec .srRead s = .next { s with result := .byte b, constructing := false } ∧
      exec .inShift s = .next { s with result := .byte b, constructing := false }

/-- R170, R324: after a set-offset and two pushes, IN 3 is fully determined by the three bytes, whatever the
register held. -/
def Obligations.TwoPushesDetermineTheShiftRead : Prop :=
  ∀ (s s1 s2 s3 t : State) (o b1 b2 : Byte), exec (.outShiftOffset o) s = .next s1 →
    exec (.outShiftData b1) s1 = .next s2 → exec (.outShiftData b2) s2 = .next s3 →
    exec .inShift s3 = .next t →
      ∃ b : Byte, t.result = .byte b ∧
        b.toNat = (b2.toNat * 256 + b1.toNat) / 2 ^ (8 - o.toNat % 8) % 256

/-- R174: the shift register changes only by an OUT to a shift port (or the micro-operation the port performs):
every other instruction, every return of the engine and every fault keep both fields. -/
def Obligations.ShiftRegisterChangesOnlyByItsPorts : Prop :=
  (∀ (i : Instr) (s t : State), exec i s = .next t →
    (∀ b, i ≠ .outShiftData b ∧ i ≠ .srPush b) → t.srValue = s.srValue) ∧
  (∀ (i : Instr) (s t : State), exec i s = .next t →
    (∀ b, i ≠ .outShiftOffset b ∧ i ≠ .srSetOffset b) → t.srOffset = s.srOffset) ∧
  (∀ s t : State, step s = .next t → (∀ r rest, s.inputs ≠ .op r :: rest) →
    t.srValue = s.srValue ∧ t.srOffset = s.srOffset)

/-! ### Ports -/

/-- R191, R192, R194: IN 1 and IN 2 return all eight bits of P1 and P2 and the rows of the undecoded ids return
0xFF; an input changes nothing but the result. -/
def Obligations.PortInputsReturnTheirByte : Prop :=
  ∀ s : State, s.status = .live →
    exec .inP1 s = .next { s with result := .byte s.p1, constructing := false } ∧
    exec .inP2 s = .next { s with result := .byte s.p2, constructing := false } ∧
    (∀ i, (i = .inUnknownA ∨ (∃ q, i = .inUnknownB q) ∨ (∃ q, i = .inUnknownC q) ∨ (∃ q, i = .inUnknownD q) ∨
        (∃ q, i = .inUnknownE q) ∨ (∃ q, i = .inUnknownF q) ∨ ∃ q, i = .inUnknownG q) →
      exec i s = .next { s with result := .byte 0xFF, constructing := false })

/-- R190: IN is the total function of the port id: exact comparison with 1, 2 and 3, and 0xFF otherwise. -/
def Obligations.DecodedInputFollowsThePortId : Prop :=
  ∀ (s : State) (port : PortId), s.status = .live →
    ∃ i, decode s.params (.ioIn port) = .ok i ∧
      exec i s = .next { s with
        result := .byte (if port = 1 then s.p1 else if port = 2 then s.p2
          else if port = 3 then window s.srValue s.srOffset else 0xFF),
        constructing := false }

/-- R203 to R205: an OUT to a sound port, to the watchdog port or to an undecoded port completes and changes no
state element; it returns nothing. -/
def Obligations.DiscardedOutputsChangeNothing : Prop :=
  ∀ s : State, s.status = .live → ∀ (d : Byte) (i : Instr),
    (i = .outSoundA d ∨ i = .outSoundB d ∨ i = .outWatchdog d ∨ (∃ q, i = .outUnknownA q d) ∨
      (∃ q, i = .outUnknownB q d) ∨ (∃ q, i = .outUnknownC q d) ∨ (∃ q, i = .outUnknownD q d) ∨
      (∃ q, i = .outUnknownE q d) ∨ (∃ q, i = .outUnknownF q d) ∨ ∃ q, i = .outUnknownG q d) →
    exec i s = .next { s with result := .nothing, constructing := false }

/-- R200: OUT is total in the port id, for every admissible assignment of the five output ids: the shift-offset
port sets the offset, the shift-data port pushes, every other id changes nothing. -/
def Obligations.DecodedOutputFollowsThePortId : Prop :=
  ∀ (s : State) (port : PortId) (v : Byte), s.status = .live → s.params.wf →
    ∃ i, decode s.params (.ioOut port v) = .ok i ∧
      (port = s.params.outShiftOffset →
        exec i s = .next ((s.srSetOffset v).returns .nothing)) ∧
      (port = s.params.outShiftData → exec i s = .next ((s.srPush v).returns .nothing)) ∧
      (port ≠ s.params.outShiftOffset → port ≠ s.params.outShiftData →
        exec i s = .next (s.returns .nothing))

/-- R236: no memory, port or shift-register operation, no FRAME and no derived reader changes P1 or P2, and no
return or fault of the engine does: only a control event or a strap does. -/
def Obligations.OnlyEventsAndStrapsWriteThePorts : Prop :=
  (∀ (i : Instr) (s t : State), exec i s = .next t →
    (∀ e pressed, i ≠ decodeEvent pressed e) → (∀ n, i ≠ .cfgLives n) → (∀ b, i ≠ .cfgCoininfo b) →
    (∀ b, i ≠ .cfgBonus b) → t.p1 = s.p1 ∧ t.p2 = s.p2) ∧
  (∀ s t : State, step s = .next t → (∀ r rest, s.inputs ≠ .op r :: rest) → t.p1 = s.p1 ∧ t.p2 = s.p2)

/-- R331: while a FRAME is in progress no step changes P1 or P2, so two IN 1 in the same FRAME return the same
byte. Constructing is over once a FRAME is in progress (`State.Inv`). -/
def Obligations.InputsAreStillDuringAFrame : Prop :=
  ∀ (s t : State) (fr : FrameRun), s.Inv → s.frame = some fr → step s = .next t →
    t.p1 = s.p1 ∧ t.p2 = s.p2

/-! ### Control events -/

/-- R210: each of the ten events (EVT.Coin, Tilt, P1Start, P1Shoot, P1Left, P1Right, P2Start, P2Shoot, P2Left,
P2Right) completes, makes exactly the bit that EVENT_MAP gives it its level, and leaves the other fifteen bits
of the port bytes and all other state alone. -/
def Obligations.EventWritesItsBit : Prop :=
  ∀ (s : State) (e : Event) (pressed : Bool), s.status = .live → s.frame = none →
    ∃ q1 q2 : Byte, exec (decodeEvent pressed e) s =
        .next { s with p1 := q1, p2 := q2, result := .nothing, constructing := false } ∧
      (∀ i : Fin 8, readBit q1 i = if s.params.eventMap.get e = ⟨.port1, i⟩ then
        (if e = .coin then !pressed else pressed) else readBit s.p1 i) ∧
      (∀ i : Fin 8, readBit q2 i = if s.params.eventMap.get e = ⟨.port2, i⟩ then
        (if e = .coin then !pressed else pressed) else readBit s.p2 i)

/-- R211: Coin is active low on bit 0 of P1, under every admissible EVENT_MAP. -/
def Obligations.CoinClearsBitZeroWhenPressed : Prop :=
  ∀ s : State, s.status = .live → s.frame = none → s.params.wf →
    exec (.evtCoin true) s =
      .next { s with p1 := s.p1 &&& 0xFE, result := .nothing, constructing := false } ∧
    exec (.evtCoin false) s =
      .next { s with p1 := s.p1 ||| 0x01, result := .nothing, constructing := false }

/-- The model's default EVENT_MAP (log 2, PRESUMED): a press sets the bit and a release clears it, of P1 for
P2Start 1, P1Start 2, P1Shoot 4, P1Left 5, P1Right 6, and of P2 for Tilt 2, P2Shoot 4, P2Left 5, P2Right 6. -/
def Obligations.DefaultEventBits : Prop :=
  ∀ s : State, s.status = .live → s.frame = none → s.params.eventMap = EventMap.default →
    (∀ i m, (i, m) ∈ [(Instr.evtP2Start, 0x02#8), (.evtP1Start, 0x04#8), (.evtP1Shoot, 0x10#8),
        (.evtP1Left, 0x20#8), (.evtP1Right, 0x40#8)] →
      exec (i true) s = .next { s with p1 := s.p1 ||| m, result := .nothing, constructing := false } ∧
      exec (i false) s = .next { s with p1 := s.p1 &&& ~~~m, result := .nothing, constructing := false }) ∧
    (∀ i m, (i, m) ∈ [(Instr.evtTilt, 0x04#8), (.evtP2Shoot, 0x10#8), (.evtP2Left, 0x20#8),
        (.evtP2Right, 0x40#8)] →
      exec (i true) s = .next { s with p2 := s.p2 ||| m, result := .nothing, constructing := false } ∧
      exec (i false) s = .next { s with p2 := s.p2 &&& ~~~m, result := .nothing, constructing := false })

/-- R221: events are idempotent, the last one of a name wins, events of different names commute, and no event
changes a configuration bit of P2. -/
def Obligations.EventLaws : Prop :=
  ∀ (s : State) (e e' : Event) (x y : Bool), s.status = .live → s.frame = none → s.params.wf →
    ∃ t, exec (decodeEvent x e) s = .next t ∧
      exec (decodeEvent x e) t = .next t ∧
      exec (decodeEvent y e) t = exec (decodeEvent y e) s ∧
      (∀ i ∈ s.params.configBits, readBit t.p2 i = readBit s.p2 i) ∧
      (e ≠ e' → ∃ u, exec (decodeEvent y e') s = .next u ∧
        exec (decodeEvent y e') t = exec (decodeEvent x e) u)

/-! ### Straps and derived readers -/

/-- R230 to R232: during construction the three straps complete and write their own bits of P2 only: LIVES the
clamped two-bit field, COININFO the inverse of its argument, BONUS its argument. -/
def Obligations.StrapsWriteTheirField : Prop :=
  ∀ s : State, s.status = .live → s.constructing = true → s.params.wf →
    (∀ n, ∃ q : Byte, exec (.cfgLives n) s = .next { s with p2 := q, result := .nothing } ∧
      (livesField s.params q).toNat = (if n ≤ 3 then 0 else if n ≤ 5 then n - 3 else 3) ∧
      ∀ i, i ≠ s.params.p2LivesLsb.castSucc → i ≠ s.params.p2LivesLsb.succ →
        readBit q i = readBit s.p2 i) ∧
    (∀ b, ∃ q : Byte, exec (.cfgCoininfo b) s = .next { s with p2 := q, result := .nothing } ∧
      ∀ i, readBit q i = if i = s.params.p2CoininfoBit then !b else readBit s.p2 i) ∧
    (∀ b, ∃ q : Byte, exec (.cfgBonus b) s = .next { s with p2 := q, result := .nothing } ∧
      ∀ i, readBit q i = if i = s.params.p2BonusBit then b else readBit s.p2 i)

/-- R233, R234: LIVES? returns the LIVES field plus 3, BONUS? 1000 if the BONUS bit is set and 1500 if not; both
change nothing but the result. -/
def Obligations.DerivedReadersDecodeTheFields : Prop :=
  ∀ s : State, s.status = .live → s.frame = none →
    exec .livesQ s = .next { s with
      result := .number ((livesField s.params s.p2).toNat + 3), constructing := false } ∧
    exec .bonusQ s = .next { s with
      result := .number (if readBit s.p2 s.params.p2BonusBit then 1000 else 1500), constructing := false }

/-- R233 over R230, R234 over R232: after the straps CFG.LIVES n and CFG.BONUS b, in this order and whatever P2
was, LIVES? returns n clamped to 3..6 and BONUS? 1000 or 1500. -/
def Obligations.ReadersInvertTheStraps : Prop :=
  ∀ (s s1 s2 : State) (n : Nat) (b : Bool), s.frame = none → s.params.wf →
    exec (.cfgLives n) s = .next s1 → exec (.cfgBonus b) s1 = .next s2 →
      ∃ t u, exec .livesQ s2 = .next t ∧ t.result = .number (min (max n 3) 6) ∧
        exec .bonusQ s2 = .next u ∧ u.result = .number (if b then 1000 else 1500)

/-- R235: two different straps commute, and of two applications of one strap the last wins. -/
def Obligations.StrapLaws : Prop :=
  ∀ (s t u : State) (n n' : Nat) (b b' : Bool), s.params.wf →
    (exec (.cfgLives n) s = .next t → exec (.cfgLives n') t = exec (.cfgLives n') s) ∧
    (exec (.cfgCoininfo b) s = .next t → exec (.cfgCoininfo b') t = exec (.cfgCoininfo b') s) ∧
    (exec (.cfgBonus b) s = .next t → exec (.cfgBonus b') t = exec (.cfgBonus b') s) ∧
    (exec (.cfgLives n) s = .next t → exec (.cfgCoininfo b) s = .next u →
      exec (.cfgCoininfo b) t = exec (.cfgLives n) u) ∧
    (exec (.cfgLives n) s = .next t → exec (.cfgBonus b) s = .next u →
      exec (.cfgBonus b) t = exec (.cfgLives n) u) ∧
    (exec (.cfgCoininfo b) s = .next t → exec (.cfgBonus b') s = .next u →
      exec (.cfgBonus b') t = exec (.cfgCoininfo b) u)

/-- R105: a strap has no step after construction, and every operation but a strap ends construction. -/
def Obligations.StrapsApplyOnlyDuringConstruction : Prop :=
  (∀ s : State, s.status = .live → s.constructing = false →
    (∀ n, exec (.cfgLives n) s = .refused .constructionOver) ∧
    (∀ b, exec (.cfgCoininfo b) s = .refused .constructionOver) ∧
    (∀ b, exec (.cfgBonus b) s = .refused .constructionOver)) ∧
  (∀ (i : Instr) (s t : State), exec i s = .next t → (∀ n, i ≠ .cfgLives n) → (∀ b, i ≠ .cfgCoininfo b) →
    (∀ b, i ≠ .cfgBonus b) → t.constructing = false)

/-- R39 item 2: once construction is over, no step changes the LIVES, BONUS and COININFO bits of P2, and
construction stays over. -/
def Obligations.ConfigurationIsFixedAfterConstruction : Prop :=
  ∀ s t : State, s.params.wf → s.constructing = false → step s = .next t →
    t.constructing = false ∧ t.params = s.params ∧
      ∀ i ∈ s.params.configBits, readBit t.p2 i = readBit s.p2 i

/-! ### The frame scheduler -/

/-- R242, R250: FRAME completes its start on an idle live session: it computes `done` and `mid` from FRM, tests
CYC first, and makes its first call. -/
def Obligations.FrameComputesItsThresholds : Prop :=
  ∀ s : State, s.status = .live → s.frame = none →
    exec .frame s = .next { s with
      frame := some ⟨.toDone, s.frm * (2 * s.params.halfFrameBudget),
        s.frm * (2 * s.params.halfFrameBudget) + s.params.halfFrameBudget,
        if s.cyc < s.frm * (2 * s.params.halfFrameBudget) then .step else .raise .mid⟩,
      result := .nothing, constructing := false }

/-- R243, R250, R251: when `Step()` returns c cycles, CYC grows by c; below the threshold of the phase the next
call is `Step()`, at or past it the interrupt of the phase; nothing else changes. -/
def Obligations.StepReturnCountsAndCompares : Prop :=
  ∀ (s : State) (c done mid : Nat) (ph : Phase) (rest : List Input), s.status = .live →
    s.frame = some ⟨ph, done, mid, .step⟩ → s.inputs = .stepReturns c :: rest →
    (ph = .toDone → step s = .next { s with
      cyc := s.cyc + c, inputs := rest, result := .nothing,
      frame := some ⟨.toDone, done, mid, if done ≤ s.cyc + c then .raise .mid else .step⟩ }) ∧
    (ph = .toMid → step s = .next { s with
      cyc := s.cyc + c, inputs := rest, result := .nothing,
      frame := some ⟨.toMid, done, mid, if mid ≤ s.cyc + c then .raise .vblank else .step⟩ })

/-- R250, R251, R292: when `RaiseInterrupt(Mid)` returns Ok the second loop begins, its test first; when
`RaiseInterrupt(VBlank)` returns Ok the FRAME returns Ok and FRM grows by one. Neither changes CYC. -/
def Obligations.InterruptReturnMovesTheFrameOn : Prop :=
  ∀ (s : State) (done mid : Nat) (ph : Phase) (k : Interrupt) (rest : List Input), s.status = .live →
    s.frame = some ⟨ph, done, mid, .raise k⟩ → s.inputs = .raiseReturns :: rest →
    (k = .mid → step s = .next { s with
      inputs := rest, result := .nothing,
      frame := some ⟨.toMid, done, mid, if mid ≤ s.cyc then .raise .vblank else .step⟩ }) ∧
    (k = .vblank → step s = .next { s with
      inputs := rest, result := .ok, frame := none, frm := s.frm + 1, constructing := false })

/-- R282, R284, R250, R291: a fault of the engine's own ends the FRAME at once: `EngineFault` from `Step()`,
`InterruptDeliveryFault` with its kind and cause from `RaiseInterrupt`. STATUS keeps it, the host gets it, and
nothing else changes: not CYC, not FRM, not memory, not the ports. -/
def Obligations.EngineFaultEndsTheFrame : Prop :=
  ∀ (s : State) (fr : FrameRun) (x : Nat) (rest : List Input), s.status = .live → s.frame = some fr →
    s.inputs = .engineFaults x :: rest →
    (fr.call = .step → step s = .next { s with
      inputs := rest, frame := none, constructing := false, status := .dead (.ofStep (.engineFault x)),
      result := .err (.ofStep (.engineFault x)) }) ∧
    (∀ k, fr.call = .raise k → step s = .next { s with
      inputs := rest, frame := none, constructing := false,
      status := .dead (.interruptDeliveryFault k (.engineFault x)),
      result := .err (.interruptDeliveryFault k (.engineFault x)) })

/-- R290, R291, R247: a memory transaction that faults inside an engine call ends the FRAME with that fault, as
the fault of the step or as the cause of the `InterruptDeliveryFault`; completed work stays, and nothing else
changes. Stated of the nine rows that fault. -/
def Obligations.RouterFaultEndsTheFrame : Prop :=
  ∀ (s : State) (fr : FrameRun) (i : Instr) (f : RouterFault) (d : Byte), s.status = .live →
    s.frame = some fr →
    ((∃ a : BitVec 14, i = .memrdMirrorA a ∧
        f = .unmappedAccess (.read (BitVec.ofNat 16 (0x4000 + a.toNat)))) ∨
      (∃ a : BitVec 15, i = .memrdMirrorB a ∧
        f = .unmappedAccess (.read (BitVec.ofNat 16 (0x8000 + a.toNat)))) ∨
      (∃ a : BitVec 13, i = .memwrRom a d ∧ f = .illegalWrite (BitVec.ofNat 16 a.toNat) d) ∨
      (∃ a : BitVec 9, i = .memwrMirrorA a d ∧
        f = .unmappedAccess (.write (BitVec.ofNat 16 (0x4200 + a.toNat)) d)) ∨
      (∃ a : BitVec 10, i = .memwrMirrorB a d ∧
        f = .unmappedAccess (.write (BitVec.ofNat 16 (0x4400 + a.toNat)) d)) ∨
      (∃ a : BitVec 11, i = .memwrMirrorC a d ∧
        f = .unmappedAccess (.write (BitVec.ofNat 16 (0x4800 + a.toNat)) d)) ∨
      (∃ a : BitVec 12, i = .memwrMirrorD a d ∧
        f = .unmappedAccess (.write (BitVec.ofNat 16 (0x5000 + a.toNat)) d)) ∨
      (∃ a : BitVec 13, i = .memwrMirrorE a d ∧
        f = .unmappedAccess (.write (BitVec.ofNat 16 (0x6000 + a.toNat)) d)) ∨
      (∃ a : BitVec 15, i = .memwrMirrorF a d ∧
        f = .unmappedAccess (.write (BitVec.ofNat 16 (0x8000 + a.toNat)) d))) →
    (fr.call = .step → exec i s = .next { s with
      frame := none, constructing := false, status := .dead (.ofStep (.router f)),
      result := .err (.ofStep (.router f)) }) ∧
    (∀ k, fr.call = .raise k → exec i s = .next { s with
      frame := none, constructing := false, status := .dead (.interruptDeliveryFault k (.router f)),
      result := .err (.interruptDeliveryFault k (.router f)) })

/-- R30: CYC never decreases, and only a `Step()` that returns adds to it, exactly its cost. -/
def Obligations.CyclesGrowOnlyByStepReturns : Prop :=
  ∀ s t : State, step s = .next t →
    (t.cyc = s.cyc ∨ ∃ c rest, s.inputs = .stepReturns c :: rest ∧ t.cyc = s.cyc + c) ∧ s.cyc ≤ t.cyc

/-- R31: FRM changes only when the VBlank of a FRAME has been delivered, which ends the FRAME with Ok, and then
by one. -/
def Obligations.FrameCounterCountsCompletedFrames : Prop :=
  ∀ s t : State, step s = .next t → t.frm ≠ s.frm →
    t.frm = s.frm + 1 ∧ t.result = .ok ∧ t.frame = none ∧
      (∃ rest, s.inputs = .raiseReturns :: rest) ∧ ∃ fr, s.frame = some fr ∧ fr.call = .raise .vblank

/-- R254, R243: in every state of the invariant, Mid is being raised only in the first phase and with CYC at or
past `done`, VBlank only in the second and with CYC at or past `mid`; the second phase begins only by the return
of Mid, and a FRAME returns Ok only by the return of VBlank. -/
def Obligations.InterruptsAreRaisedInOrder : Prop :=
  ∀ s t : State, s.Inv → step s = .next t →
    (∀ fr, s.frame = some fr → fr.call = .raise .mid → fr.phase = .toDone ∧ s.doneThreshold ≤ s.cyc) ∧
    (∀ fr, s.frame = some fr → fr.call = .raise .vblank → fr.phase = .toMid ∧ s.midThreshold ≤ s.cyc) ∧
    (∀ fr, t.frame = some fr → fr.phase = .toMid → ∃ fr', s.frame = some fr' ∧
      (fr'.phase = .toMid ∨ fr'.call = .raise .mid ∧ ∃ rest, s.inputs = .raiseReturns :: rest)) ∧
    (∀ fr, s.frame = some fr → t.frame = none → t.status = .live →
      fr.call = .raise .vblank ∧ t.frm = s.frm + 1)

/-- R293, R39 item 8: on a dead session every instruction and every return of the engine is refused, and the
only step there is the one that changes nothing because no move is waiting. -/
def Obligations.DeadSessionRefusesEverything : Prop :=
  ∀ (s : State) (e : FatalError), s.status = .dead e →
    (∀ i, exec i s = .refused .deadSession) ∧
    (s.inputs ≠ [] → step s = .refused .deadSession) ∧
    (∀ t, step s = .next t → t = s)

/-- R331, R297: while a FRAME is running the host has no move: EVT, FRAME, LIVES? and BONUS? have no step, nor
have the straps (construction is over then, `State.Inv`), the frame buffer is not read and the session does not
end. -/
def Obligations.HostWaitsForTheFrame : Prop :=
  ∀ (s : State) (fr : FrameRun), s.status = .live → s.frame = some fr →
    (∀ e pressed, exec (decodeEvent pressed e) s = .refused .frameInProgress) ∧
    exec .frame s = .refused .frameInProgress ∧ exec .livesQ s = .refused .frameInProgress ∧
    exec .bonusQ s = .refused .frameInProgress ∧
    (s.Inv → (∀ n, exec (.cfgLives n) s = .refused .constructionOver) ∧
      (∀ b, exec (.cfgCoininfo b) s = .refused .constructionOver) ∧
      ∀ b, exec (.cfgBonus b) s = .refused .constructionOver) ∧
    s.frameBuffer = none ∧ ∀ p seg0 seg1 seg2 seg3, s.newSession p seg0 seg1 seg2 seg3 = none

/-! ### The engine as an argument -/

/-- R250 and R33: the interleaved machine is R250's procedure. For every engine, if R250's FRAME over it
returns, with whatever result, then there are moves on which the machine, given FRAME first, reaches exactly
the state the procedure leaves, and the moves after them still wait. -/
def Obligations.MachineRunsEveryEngine : Prop :=
  ∀ (e : Engine) (n1 n2 : Nat) (h : e.Hidden) (s t : State) (h' : Option e.Hidden), s.status = .live →
    s.frame = none → e.frame n1 n2 h s = some (h', t) →
    ∃ (moves : List Input) (n : Nat), ∀ rest : List Input,
      Sys2Proof.core.run n { s with inputs := .op (.cmd .frame) :: moves ++ rest } =
        .next { t with inputs := rest }

/-- R256, C6: under an engine whose every step succeeds at no cost, a FRAME whose first threshold is not yet met
never returns, however long one waits. -/
def Obligations.ZeroCostEngineNeverReturns : Prop :=
  ∀ (e : Engine) (h : e.Hidden) (s : State), s.status = .live → s.frame = none →
    (∀ h u, ∃ h' v, (e.step h).serve u = (.ok (0, h'), v)) → s.cyc < s.doneThreshold →
    ∀ n1 n2, e.frame n1 n2 h s = none

/-- R256: under an engine whose every step costs at least one cycle and that never faults, a FRAME returns Ok, its
two loops making at most `mid` steps together; entered with CYC at or past the previous `mid`, at most
FULL_FRAME_BUDGET steps together. (`n1` and `n2` bound the steps of the two loops.) -/
def Obligations.PositiveCostFrameReturns : Prop :=
  ∀ (e : Engine) (h : e.Hidden) (s : State), s.status = .live → s.frame = none →
    (∀ h u, ∃ c h' v, (e.step h).serve u = (.ok (c + 1, h'), v)) →
    (∀ k h u, ∃ h' v, (e.raiseInterrupt k h).serve u = (.ok h', v)) →
    (∃ n1 n2 h' t, n1 + n2 ≤ s.midThreshold ∧ e.frame n1 n2 h s = some (some h', t)) ∧
    (s.doneThreshold ≤ s.cyc + s.params.halfFrameBudget →
      ∃ n1 n2 h' t, n1 + n2 ≤ s.params.fullFrameBudget ∧ e.frame n1 n2 h s = some (some h', t))

/-- R258, R39 items 6 and 7: any number n of FRAME commands on a live idle session, over an engine that never
faults and whose costs are positive, return Ok, leave FRM n higher, the session live and idle, and CYC at or past
`(FRM − 1) × FULL_FRAME_BUDGET + HALF_FRAME_BUDGET`. From reset and n = 1000 that is FRM = 1001 and
CYC ≥ 33,348,666: this number rests on the default HALF_FRAME_BUDGET 16666, which is the model's choice and no rule
of the source (log 8, DESIGN CHOICE). -/
def Obligations.ThousandFramesReturnOk : Prop :=
  ∀ e : Engine,
    (∀ h u, ∃ c h' v, (e.step h).serve u = (.ok (c + 1, h'), v)) →
    (∀ k h u, ∃ h' v, (e.raiseInterrupt k h).serve u = (.ok h', v)) →
    (∀ (n : Nat) (h : e.Hidden) (s : State), s.status = .live → s.frame = none → 0 < n → ∃ fuel h' t, e.frames fuel n h s = some (h', t) ∧
      t.frm = s.frm + n ∧ t.params = s.params ∧ t.status = .live ∧ t.frame = none ∧
      (t.frm - 1) * s.params.fullFrameBudget + s.params.halfFrameBudget ≤ t.cyc) ∧
    (∀ h : e.Hidden, ∃ fuel h' t, e.frames fuel 1000 h State.reset = some (h', t) ∧ t.frm = 1001 ∧
      33348666 ≤ t.cyc)

/-! ### Decoding and stepping -/

/-- R101 to R104, R108: decoding the encoding of a well-formed instruction gives it back, for every instruction,
every operand and every admissible set of parameters. -/
def Obligations.DecodeOfEncode : Prop :=
  ∀ (i : Instr) (p : Params), p.wf → i.wf p = true → ∀ r, encode p i = some r → decode p r = .ok i

/-- R108, R109, R142: the decoder never rejects a request; what it answers is well formed and encodes to that
very request. -/
def Obligations.EveryRequestHasItsRow : Prop :=
  ∀ (p : Params) (r : Request), ∃ i, decode p r = .ok i ∧ i.wf p = true ∧ encode p i = some r

/-- R108, R101: in the table exactly one row of a format accepts a value of its selecting field. The IO_OUT rows are
computed for the default ids (R108), which are the model's parameters and not the source's (log 1, PRESUMED). -/
def Obligations.TableRowsAreDisjointAndExhaustive : Prop :=
  (∀ v : Addr, memRdRows.countP (·.accepts v) = 1) ∧
  (∀ v : Addr, memWrRows.countP (·.accepts v) = 1) ∧
  (∀ v : PortId, ioInRows.countP (·.accepts v) = 1) ∧
  (∀ v : PortId, (ioOutIdRows Params.default ++ ioOutUnknownRows.dropLast).countP (·.accepts v) = 1)

/-- R101 to R104: words written out from the patterns of the decode tables decode to their rows. That output id 4 is
OUT.SHIFT_DATA is the default id of the model's parameters and not the source's (log 1, PRESUMED). -/
def Obligations.SampleWordsDecode : Prop :=
  decode Params.default (.memRd 0b0001111111111111) = .ok (.memrdRom 0b1111111111111) ∧
  decode Params.default (.memRd 0b0010000000000001) = .ok (.memrdRam 0b0000000001) ∧
  decode Params.default (.memWr 0b0011000000000000 0x5A) = .ok (.memwrVramC 0 0x5A) ∧
  decode Params.default (.memWr 0b0100000111111111 0x5A) = .ok (.memwrWindow 0b111111111 0x5A) ∧
  decode Params.default (.memWr 0b0100001000000000 0x5A) = .ok (.memwrMirrorA 0 0x5A) ∧
  decode Params.default (.ioIn 0b00000011) = .ok .inShift ∧
  decode Params.default (.ioOut 0b00000100 0xD4) = .ok (.outShiftData 0xD4) ∧
  decode Params.default (.evt .tilt true) = .ok (.evtTilt true) ∧
  decode Params.default (.cfgLives 5) = .ok (.cfgLives 5) ∧
  decode Params.default (.cmd .frame) = .ok .frame

/-- R80, R297: a step takes the next move in the order issued. On a live session a request that decodes is executed
as the decoded instruction, on the state without that move: a request of the host always, a memory or port
transaction inside an engine call, and with no call outstanding it is refused by name. With no move waiting nothing
happens. -/
def Obligations.StepRunsTheDecodedInstruction : Prop :=
  ∀ s : State,
    (∀ r rest i, s.status = .live → s.inputs = .op r :: rest → decode s.params r = .ok i →
      (isTransaction r = false → step s = exec i { s with inputs := rest }) ∧
      (isTransaction r = true → s.frame ≠ none → step s = exec i { s with inputs := rest }) ∧
      (isTransaction r = true → s.frame = none → step s = .refused .noEngineCall)) ∧
    (s.inputs = [] → step s = .next s)

/-- `withFetchWord` (a model convention, log 10): the next step runs the instruction that `decodeTableWord`
reads, inside an engine call: that of the FRAME in progress, or of a FRAME just begun. -/
def Obligations.FetchedWordRunsNext : Prop :=
  ∀ (s : State) (nbits w : Nat) (i : Instr), s.params = Params.default → s.status = .live →
    decodeTableWord nbits w = some i → step (s.withFetchWord nbits w) = exec i s.inCall ∧
      (s.frame ≠ none → s.inCall = s) ∧
      (s.frame = none → exec .frame s = .next s.inCall)

/-! ### The invariant -/

/-- R39, R24, R33: every step keeps the invariant. -/
def Obligations.EveryStepKeepsTheInvariant : Prop :=
  ∀ s t : State, s.Inv → step s = .next t → t.Inv

/-- The invariant holds after reset and after every construction (R40; the zero image and buffer of
`State.reset` are the model's choice, log 11). -/
def Obligations.ConstructionMeetsTheInvariant : Prop :=
  State.reset.Inv ∧
  ∀ (p : Params) (seg0 seg1 seg2 seg3 vram : List Byte) (s : State),
    State.construct p seg0 seg1 seg2 seg3 vram = some s → s.Inv
end

