-- ==== Sys2Proof/Laws/Memory.lean ====
section
/-!
SUPPORT. The laws of memory: read after write, and that every memory operation keeps the canonical form.
-/

namespace Sys2Proof.Machine

@[simp] theorem Memory.read_nil (a : Nat) : Memory.read [] a = Memory.unlisted := rfl

theorem Memory.read_cons (k a : Nat) (b : Byte) (m : Memory) :
    Memory.read ((k, b) :: m) a = if k = a then b else Memory.read m a := rfl

theorem Memory.mem_cell {c : Host.Cell} {a : Nat} {v : Byte} (h : c ∈ Memory.cell a v) :
    c = (a, v) ∧ v ≠ Memory.unlisted := by
  unfold Memory.cell at h
  split at h
  · simp at h
  · exact ⟨by simpa using h, ‹_›⟩

/-- An address below every listed one is unlisted. -/
theorem Memory.read_of_lt {m : Memory} {a : Nat} (h : ∀ c ∈ m, a < c.1) : m.read a = Memory.unlisted := by
  induction m with
  | nil => rfl
  | cons c m ih =>
    obtain ⟨k, b⟩ := c
    have hk : a < k := h (k, b) (by simp)
    rw [Memory.read_cons, if_neg (by omega), ih fun c hc => h c (by simp [hc])]

theorem Memory.read_cell_append (a b : Nat) (v : Byte) (m : Memory) :
    Memory.read (Memory.cell a v ++ m) b =
      if v = Memory.unlisted then m.read b else if a = b then v else m.read b := by
  unfold Memory.cell
  split <;> simp_all [Memory.read_cons]

/-- A byte written is read back, in canonical memory. -/
theorem Memory.read_write_same {m : Memory} (h : m.Pairwise (fun c d => c.1 < d.1)) (a : Nat) (v : Byte) :
    (m.write a v).read a = v := by
  induction m with
  | nil =>
    have := Memory.read_cell_append a a v []
    simp only [List.append_nil] at this
    rw [Memory.write, this]
    split <;> simp_all
  | cons c m ih =>
    obtain ⟨k, b⟩ := c
    rw [List.pairwise_cons] at h
    unfold Memory.write
    split
    · rw [Memory.read_cell_append]
      split
      · rw [Memory.read_of_lt]
        · exact Eq.symm ‹_›
        · intro c hc
          rcases List.mem_cons.1 hc with rfl | hc
          · assumption
          · have := h.1 c hc; simp only at this; omega
      · simp
    · split
      · subst a
        rw [Memory.read_cell_append]
        split
        · rw [Memory.read_of_lt h.1]; exact Eq.symm ‹_›
        · simp
      · rw [Memory.read_cons, if_neg (by omega), ih h.2]

/-- A write leaves every other address alone. -/
theorem Memory.read_write_other (m : Memory) {a b : Nat} (hab : a ≠ b) (v : Byte) :
    (m.write a v).read b = m.read b := by
  induction m with
  | nil =>
    have := Memory.read_cell_append a b v []
    simp only [List.append_nil] at this
    rw [Memory.write, this]
    simp [hab]
  | cons c m ih =>
    obtain ⟨k, w⟩ := c
    unfold Memory.write
    split
    · rw [Memory.read_cell_append]; simp [hab]
    · split
      · subst a; rw [Memory.read_cell_append, Memory.read_cons]; simp [hab]
      · rw [Memory.read_cons, Memory.read_cons, ih]

theorem Memory.mem_write {c : Host.Cell} {m : Memory} {a : Nat} {v : Byte} (h : c ∈ m.write a v) :
    c ∈ m ∨ (c = (a, v) ∧ v ≠ Memory.unlisted) := by
  induction m with
  | nil => exact .inr (Memory.mem_cell h)
  | cons d m ih =>
    obtain ⟨k, b⟩ := d
    unfold Memory.write at h
    split at h
    · rcases List.mem_append.1 h with h | h
      · exact .inr (Memory.mem_cell h)
      · exact .inl h
    · split at h
      · rcases List.mem_append.1 h with h | h
        · exact .inr (Memory.mem_cell h)
        · exact .inl (by simp [h])
      · rcases List.mem_cons.1 h with rfl | h
        · exact .inl (by simp)
        · exact (ih h).imp (fun h => by simp [h]) id

theorem Memory.pairwise_cell_append {a : Nat} {v : Byte} {m : Memory}
    (hm : m.Pairwise (fun c d => c.1 < d.1)) (h : ∀ c ∈ m, a < c.1) :
    (Memory.cell a v ++ m).Pairwise (fun c d => c.1 < d.1) := by
  refine List.pairwise_append.2 ⟨?_, hm, ?_⟩
  · unfold Memory.cell
    split <;> simp
  · intro c hc d hd
    rw [(Memory.mem_cell hc).1]
    exact h d hd

theorem Memory.pairwise_write {m : Memory} (h : m.Pairwise (fun c d => c.1 < d.1)) (a : Nat) (v : Byte) :
    (m.write a v).Pairwise (fun c d => c.1 < d.1) := by
  induction m with
  | nil => simpa [Memory.write] using Memory.pairwise_cell_append (a := a) (v := v) h (by simp)
  | cons c m ih =>
    obtain ⟨k, b⟩ := c
    have hc := List.pairwise_cons.1 h
    unfold Memory.write
    split
    · refine Memory.pairwise_cell_append h fun c hcm => ?_
      rcases List.mem_cons.1 hcm with rfl | hcm
      · assumption
      · have := hc.1 c hcm; simp only at this; omega
    · split
      · subst a; exact Memory.pairwise_cell_append hc.2 hc.1
      · refine List.pairwise_cons.2 ⟨fun d hd => ?_, ih hc.2⟩
        rcases Memory.mem_write hd with hd | ⟨rfl, -⟩
        · exact hc.1 d hd
        · simp only; omega

/-- A write at an address with storage keeps the canonical form. -/
theorem Memory.wf_write {m : Memory} (h : m.wf) {a : Nat} (ha : a < storageEnd) (v : Byte) :
    (m.write a v).wf :=
  ⟨Memory.pairwise_write h.1 a v, fun c hc => by
    rcases Memory.mem_write hc with hc | ⟨rfl, hv⟩
    · exact h.2 c hc
    · exact ⟨hv, ha⟩⟩

/-- A cell of an image has an address of the image and is not the unlisted byte. -/
theorem Memory.mem_image {c : Host.Cell} {base : Nat} {bs : List Byte} (h : c ∈ Memory.image base bs) :
    base ≤ c.1 ∧ c.1 < base + bs.length ∧ c.2 ≠ Memory.unlisted := by
  induction bs generalizing base with
  | nil => simp [Memory.image] at h
  | cons b bs ih =>
    rcases List.mem_append.1 h with h | h
    · obtain ⟨rfl, hv⟩ := Memory.mem_cell h
      exact ⟨by simp, by simp, hv⟩
    · obtain ⟨h1, h2, h3⟩ := ih h
      refine ⟨by omega, ?_, h3⟩
      simp only [List.length_cons]; omega

theorem Memory.pairwise_image (base : Nat) (bs : List Byte) :
    (Memory.image base bs).Pairwise (fun c d => c.1 < d.1) := by
  induction bs generalizing base with
  | nil => simp [Memory.image]
  | cons b bs ih =>
    refine Memory.pairwise_cell_append (ih _) fun c hc => ?_
    have := (Memory.mem_image hc).1
    omega

/-- The bytes of an image are read back at their addresses. -/
theorem Memory.read_image_append (base : Nat) (bs : List Byte) (m : Memory) (i : Nat) (hi : i < bs.length)
    (hm : ∀ c ∈ m, base + bs.length ≤ c.1) :
    (Memory.image base bs ++ m).read (base + i) = bs[i] := by
  induction bs generalizing base i with
  | nil => simp at hi
  | cons b bs ih =>
    rw [Memory.image, List.append_assoc, Memory.read_cell_append]
    cases i with
    | zero =>
      split
      · rw [Memory.read_of_lt]
        · simp only [List.getElem_cons_zero]; exact Eq.symm ‹_›
        · intro c hc
          rcases List.mem_append.1 hc with hc | hc
          · have := (Memory.mem_image hc).1; omega
          · have := hm c hc; simp only [List.length_cons] at this; omega
      · simp
    | succ i =>
      have := ih (base + 1) i (by simpa using hi) (fun c hc => by
        have := hm c hc; simp only [List.length_cons] at this; omega)
      rw [show base + 1 + i = base + (i + 1) by omega] at this
      split
      · simpa using this
      · rw [if_neg (by omega)]; simpa using this

theorem Memory.read_append_of_not_mem {m n : Memory} {a : Nat} (h : ∀ c ∈ m, c.1 ≠ a) :
    (m ++ n).read a = n.read a := by
  induction m with
  | nil => rfl
  | cons c m ih =>
    obtain ⟨k, b⟩ := c
    rw [List.cons_append, Memory.read_cons, if_neg (h (k, b) (by simp)), ih fun c hc => h c (by simp [hc])]

@[simp] theorem Memory.image_replicate (base n : Nat) :
    Memory.image base (List.replicate n Memory.unlisted) = [] := by
  induction n generalizing base with
  | zero => rfl
  | succ n ih => simp [List.replicate_succ, Memory.image, Memory.cell, ih]

end Sys2Proof.Machine
end

