-- ==== Sys2Proof/Laws/State.lean ====
section
/-!
SUPPORT. One lemma per field per update of the state, so that no proof unfolds a record update.
-/

namespace Sys2Proof.Machine

/-! ### `State.returns` -/

@[simp] theorem State.returns_params (s : State) (r : Result) : (s.returns r).params = s.params := rfl
@[simp] theorem State.returns_mem (s : State) (r : Result) : (s.returns r).mem = s.mem := rfl
@[simp] theorem State.returns_srValue (s : State) (r : Result) : (s.returns r).srValue = s.srValue := rfl
@[simp] theorem State.returns_srOffset (s : State) (r : Result) : (s.returns r).srOffset = s.srOffset := rfl
@[simp] theorem State.returns_p1 (s : State) (r : Result) : (s.returns r).p1 = s.p1 := rfl
@[simp] theorem State.returns_p2 (s : State) (r : Result) : (s.returns r).p2 = s.p2 := rfl
@[simp] theorem State.returns_cyc (s : State) (r : Result) : (s.returns r).cyc = s.cyc := rfl
@[simp] theorem State.returns_frm (s : State) (r : Result) : (s.returns r).frm = s.frm := rfl
@[simp] theorem State.returns_status (s : State) (r : Result) : (s.returns r).status = s.status := rfl
@[simp] theorem State.returns_frame (s : State) (r : Result) : (s.returns r).frame = s.frame := rfl
@[simp] theorem State.returns_constructing (s : State) (r : Result) : (s.returns r).constructing = false := rfl
@[simp] theorem State.returns_result (s : State) (r : Result) : (s.returns r).result = r := rfl
@[simp] theorem State.returns_inputs (s : State) (r : Result) : (s.returns r).inputs = s.inputs := rfl

/-! ### `State.strap` -/

@[simp] theorem State.strap_params (s : State) (b : Byte) : (s.strap b).params = s.params := rfl
@[simp] theorem State.strap_mem (s : State) (b : Byte) : (s.strap b).mem = s.mem := rfl
@[simp] theorem State.strap_srValue (s : State) (b : Byte) : (s.strap b).srValue = s.srValue := rfl
@[simp] theorem State.strap_srOffset (s : State) (b : Byte) : (s.strap b).srOffset = s.srOffset := rfl
@[simp] theorem State.strap_p1 (s : State) (b : Byte) : (s.strap b).p1 = s.p1 := rfl
@[simp] theorem State.strap_p2 (s : State) (b : Byte) : (s.strap b).p2 = b := rfl
@[simp] theorem State.strap_cyc (s : State) (b : Byte) : (s.strap b).cyc = s.cyc := rfl
@[simp] theorem State.strap_frm (s : State) (b : Byte) : (s.strap b).frm = s.frm := rfl
@[simp] theorem State.strap_status (s : State) (b : Byte) : (s.strap b).status = s.status := rfl
@[simp] theorem State.strap_frame (s : State) (b : Byte) : (s.strap b).frame = s.frame := rfl
@[simp] theorem State.strap_constructing (s : State) (b : Byte) : (s.strap b).constructing = s.constructing := rfl
@[simp] theorem State.strap_result (s : State) (b : Byte) : (s.strap b).result = .nothing := rfl
@[simp] theorem State.strap_inputs (s : State) (b : Byte) : (s.strap b).inputs = s.inputs := rfl

/-! ### `State.setBankByte` -/

@[simp] theorem State.setBankByte_params (s : State) (b : Bank) (i : Nat) (v : Byte) : (s.setBankByte b i v).params = s.params := rfl
@[simp] theorem State.setBankByte_mem (s : State) (b : Bank) (i : Nat) (v : Byte) : (s.setBankByte b i v).mem = s.mem.write (b.base + i) v := rfl
@[simp] theorem State.setBankByte_srValue (s : State) (b : Bank) (i : Nat) (v : Byte) : (s.setBankByte b i v).srValue = s.srValue := rfl
@[simp] theorem State.setBankByte_srOffset (s : State) (b : Bank) (i : Nat) (v : Byte) : (s.setBankByte b i v).srOffset = s.srOffset := rfl
@[simp] theorem State.setBankByte_p1 (s : State) (b : Bank) (i : Nat) (v : Byte) : (s.setBankByte b i v).p1 = s.p1 := rfl
@[simp] theorem State.setBankByte_p2 (s : State) (b : Bank) (i : Nat) (v : Byte) : (s.setBankByte b i v).p2 = s.p2 := rfl
@[simp] theorem State.setBankByte_cyc (s : State) (b : Bank) (i : Nat) (v : Byte) : (s.setBankByte b i v).cyc = s.cyc := rfl
@[simp] theorem State.setBankByte_frm (s : State) (b : Bank) (i : Nat) (v : Byte) : (s.setBankByte b i v).frm = s.frm := rfl
@[simp] theorem State.setBankByte_status (s : State) (b : Bank) (i : Nat) (v : Byte) : (s.setBankByte b i v).status = s.status := rfl
@[simp] theorem State.setBankByte_frame (s : State) (b : Bank) (i : Nat) (v : Byte) : (s.setBankByte b i v).frame = s.frame := rfl
@[simp] theorem State.setBankByte_constructing (s : State) (b : Bank) (i : Nat) (v : Byte) : (s.setBankByte b i v).constructing = s.constructing := rfl
@[simp] theorem State.setBankByte_result (s : State) (b : Bank) (i : Nat) (v : Byte) : (s.setBankByte b i v).result = s.result := rfl
@[simp] theorem State.setBankByte_inputs (s : State) (b : Bank) (i : Nat) (v : Byte) : (s.setBankByte b i v).inputs = s.inputs := rfl

/-! ### `State.srPush` -/

@[simp] theorem State.srPush_params (s : State) (b : Byte) : (s.srPush b).params = s.params := rfl
@[simp] theorem State.srPush_mem (s : State) (b : Byte) : (s.srPush b).mem = s.mem := rfl
@[simp] theorem State.srPush_srValue (s : State) (b : Byte) : (s.srPush b).srValue = pushed s.srValue b := rfl
@[simp] theorem State.srPush_srOffset (s : State) (b : Byte) : (s.srPush b).srOffset = s.srOffset := rfl
@[simp] theorem State.srPush_p1 (s : State) (b : Byte) : (s.srPush b).p1 = s.p1 := rfl
@[simp] theorem State.srPush_p2 (s : State) (b : Byte) : (s.srPush b).p2 = s.p2 := rfl
@[simp] theorem State.srPush_cyc (s : State) (b : Byte) : (s.srPush b).cyc = s.cyc := rfl
@[simp] theorem State.srPush_frm (s : State) (b : Byte) : (s.srPush b).frm = s.frm := rfl
@[simp] theorem State.srPush_status (s : State) (b : Byte) : (s.srPush b).status = s.status := rfl
@[simp] theorem State.srPush_frame (s : State) (b : Byte) : (s.srPush b).frame = s.frame := rfl
@[simp] theorem State.srPush_constructing (s : State) (b : Byte) : (s.srPush b).constructing = s.constructing := rfl
@[simp] theorem State.srPush_result (s : State) (b : Byte) : (s.srPush b).result = s.result := rfl
@[simp] theorem State.srPush_inputs (s : State) (b : Byte) : (s.srPush b).inputs = s.inputs := rfl

/-! ### `State.srSetOffset` -/

@[simp] theorem State.srSetOffset_params (s : State) (b : Byte) : (s.srSetOffset b).params = s.params := rfl
@[simp] theorem State.srSetOffset_mem (s : State) (b : Byte) : (s.srSetOffset b).mem = s.mem := rfl
@[simp] theorem State.srSetOffset_srValue (s : State) (b : Byte) : (s.srSetOffset b).srValue = s.srValue := rfl
@[simp] theorem State.srSetOffset_srOffset (s : State) (b : Byte) : (s.srSetOffset b).srOffset = offsetOperand b := rfl
@[simp] theorem State.srSetOffset_p1 (s : State) (b : Byte) : (s.srSetOffset b).p1 = s.p1 := rfl
@[simp] theorem State.srSetOffset_p2 (s : State) (b : Byte) : (s.srSetOffset b).p2 = s.p2 := rfl
@[simp] theorem State.srSetOffset_cyc (s : State) (b : Byte) : (s.srSetOffset b).cyc = s.cyc := rfl
@[simp] theorem State.srSetOffset_frm (s : State) (b : Byte) : (s.srSetOffset b).frm = s.frm := rfl
@[simp] theorem State.srSetOffset_status (s : State) (b : Byte) : (s.srSetOffset b).status = s.status := rfl
@[simp] theorem State.srSetOffset_frame (s : State) (b : Byte) : (s.srSetOffset b).frame = s.frame := rfl
@[simp] theorem State.srSetOffset_constructing (s : State) (b : Byte) : (s.srSetOffset b).constructing = s.constructing := rfl
@[simp] theorem State.srSetOffset_result (s : State) (b : Byte) : (s.srSetOffset b).result = s.result := rfl
@[simp] theorem State.srSetOffset_inputs (s : State) (b : Byte) : (s.srSetOffset b).inputs = s.inputs := rfl

/-! ### `State.die` -/

@[simp] theorem State.die_params (s : State) (e : FatalError) : (s.die e).params = s.params := rfl
@[simp] theorem State.die_mem (s : State) (e : FatalError) : (s.die e).mem = s.mem := rfl
@[simp] theorem State.die_srValue (s : State) (e : FatalError) : (s.die e).srValue = s.srValue := rfl
@[simp] theorem State.die_srOffset (s : State) (e : FatalError) : (s.die e).srOffset = s.srOffset := rfl
@[simp] theorem State.die_p1 (s : State) (e : FatalError) : (s.die e).p1 = s.p1 := rfl
@[simp] theorem State.die_p2 (s : State) (e : FatalError) : (s.die e).p2 = s.p2 := rfl
@[simp] theorem State.die_cyc (s : State) (e : FatalError) : (s.die e).cyc = s.cyc := rfl
@[simp] theorem State.die_frm (s : State) (e : FatalError) : (s.die e).frm = s.frm := rfl
@[simp] theorem State.die_status (s : State) (e : FatalError) : (s.die e).status = .dead e := rfl
@[simp] theorem State.die_frame (s : State) (e : FatalError) : (s.die e).frame = none := rfl
@[simp] theorem State.die_constructing (s : State) (e : FatalError) : (s.die e).constructing = false := rfl
@[simp] theorem State.die_result (s : State) (e : FatalError) : (s.die e).result = .err e := rfl
@[simp] theorem State.die_inputs (s : State) (e : FatalError) : (s.die e).inputs = s.inputs := rfl

/-! ### `State.beginFrame` -/

@[simp] theorem State.beginFrame_params (s : State) : s.beginFrame.params = s.params := rfl
@[simp] theorem State.beginFrame_mem (s : State) : s.beginFrame.mem = s.mem := rfl
@[simp] theorem State.beginFrame_srValue (s : State) : s.beginFrame.srValue = s.srValue := rfl
@[simp] theorem State.beginFrame_srOffset (s : State) : s.beginFrame.srOffset = s.srOffset := rfl
@[simp] theorem State.beginFrame_p1 (s : State) : s.beginFrame.p1 = s.p1 := rfl
@[simp] theorem State.beginFrame_p2 (s : State) : s.beginFrame.p2 = s.p2 := rfl
@[simp] theorem State.beginFrame_cyc (s : State) : s.beginFrame.cyc = s.cyc := rfl
@[simp] theorem State.beginFrame_frm (s : State) : s.beginFrame.frm = s.frm := rfl
@[simp] theorem State.beginFrame_status (s : State) : s.beginFrame.status = s.status := rfl
@[simp] theorem State.beginFrame_frame (s : State) : s.beginFrame.frame =
    some ⟨.toDone, s.doneThreshold, s.midThreshold, nextCall s.cyc .toDone s.doneThreshold s.midThreshold⟩ := rfl
@[simp] theorem State.beginFrame_constructing (s : State) : s.beginFrame.constructing = false := rfl
@[simp] theorem State.beginFrame_result (s : State) : s.beginFrame.result = .nothing := rfl
@[simp] theorem State.beginFrame_inputs (s : State) : s.beginFrame.inputs = s.inputs := rfl

/-! ### `State.await` -/

@[simp] theorem State.await_params (s : State) (ph : Phase) (d m : Nat) : (s.await ph d m).params = s.params := rfl
@[simp] theorem State.await_mem (s : State) (ph : Phase) (d m : Nat) : (s.await ph d m).mem = s.mem := rfl
@[simp] theorem State.await_srValue (s : State) (ph : Phase) (d m : Nat) : (s.await ph d m).srValue = s.srValue := rfl
@[simp] theorem State.await_srOffset (s : State) (ph : Phase) (d m : Nat) : (s.await ph d m).srOffset = s.srOffset := rfl
@[simp] theorem State.await_p1 (s : State) (ph : Phase) (d m : Nat) : (s.await ph d m).p1 = s.p1 := rfl
@[simp] theorem State.await_p2 (s : State) (ph : Phase) (d m : Nat) : (s.await ph d m).p2 = s.p2 := rfl
@[simp] theorem State.await_cyc (s : State) (ph : Phase) (d m : Nat) : (s.await ph d m).cyc = s.cyc := rfl
@[simp] theorem State.await_frm (s : State) (ph : Phase) (d m : Nat) : (s.await ph d m).frm = s.frm := rfl
@[simp] theorem State.await_status (s : State) (ph : Phase) (d m : Nat) : (s.await ph d m).status = s.status := rfl
@[simp] theorem State.await_frame (s : State) (ph : Phase) (d m : Nat) : (s.await ph d m).frame = some ⟨ph, d, m, nextCall s.cyc ph d m⟩ := rfl
@[simp] theorem State.await_constructing (s : State) (ph : Phase) (d m : Nat) : (s.await ph d m).constructing = s.constructing := rfl
@[simp] theorem State.await_result (s : State) (ph : Phase) (d m : Nat) : (s.await ph d m).result = .nothing := rfl
@[simp] theorem State.await_inputs (s : State) (ph : Phase) (d m : Nat) : (s.await ph d m).inputs = s.inputs := rfl

/-! ### `State.addCycles` -/

@[simp] theorem State.addCycles_params (s : State) (n : Nat) : (s.addCycles n).params = s.params := rfl
@[simp] theorem State.addCycles_mem (s : State) (n : Nat) : (s.addCycles n).mem = s.mem := rfl
@[simp] theorem State.addCycles_srValue (s : State) (n : Nat) : (s.addCycles n).srValue = s.srValue := rfl
@[simp] theorem State.addCycles_srOffset (s : State) (n : Nat) : (s.addCycles n).srOffset = s.srOffset := rfl
@[simp] theorem State.addCycles_p1 (s : State) (n : Nat) : (s.addCycles n).p1 = s.p1 := rfl
@[simp] theorem State.addCycles_p2 (s : State) (n : Nat) : (s.addCycles n).p2 = s.p2 := rfl
@[simp] theorem State.addCycles_cyc (s : State) (n : Nat) : (s.addCycles n).cyc = s.cyc + n := rfl
@[simp] theorem State.addCycles_frm (s : State) (n : Nat) : (s.addCycles n).frm = s.frm := rfl
@[simp] theorem State.addCycles_status (s : State) (n : Nat) : (s.addCycles n).status = s.status := rfl
@[simp] theorem State.addCycles_frame (s : State) (n : Nat) : (s.addCycles n).frame = s.frame := rfl
@[simp] theorem State.addCycles_constructing (s : State) (n : Nat) : (s.addCycles n).constructing = s.constructing := rfl
@[simp] theorem State.addCycles_result (s : State) (n : Nat) : (s.addCycles n).result = s.result := rfl
@[simp] theorem State.addCycles_inputs (s : State) (n : Nat) : (s.addCycles n).inputs = s.inputs := rfl

/-! ### `State.finishFrame` -/

@[simp] theorem State.finishFrame_params (s : State) : (s.finishFrame).params = s.params := rfl
@[simp] theorem State.finishFrame_mem (s : State) : (s.finishFrame).mem = s.mem := rfl
@[simp] theorem State.finishFrame_srValue (s : State) : (s.finishFrame).srValue = s.srValue := rfl
@[simp] theorem State.finishFrame_srOffset (s : State) : (s.finishFrame).srOffset = s.srOffset := rfl
@[simp] theorem State.finishFrame_p1 (s : State) : (s.finishFrame).p1 = s.p1 := rfl
@[simp] theorem State.finishFrame_p2 (s : State) : (s.finishFrame).p2 = s.p2 := rfl
@[simp] theorem State.finishFrame_cyc (s : State) : (s.finishFrame).cyc = s.cyc := rfl
@[simp] theorem State.finishFrame_frm (s : State) : (s.finishFrame).frm = s.frm + 1 := rfl
@[simp] theorem State.finishFrame_status (s : State) : (s.finishFrame).status = s.status := rfl
@[simp] theorem State.finishFrame_frame (s : State) : (s.finishFrame).frame = none := rfl
@[simp] theorem State.finishFrame_constructing (s : State) : (s.finishFrame).constructing = false := rfl
@[simp] theorem State.finishFrame_result (s : State) : (s.finishFrame).result = .ok := rfl
@[simp] theorem State.finishFrame_inputs (s : State) : (s.finishFrame).inputs = s.inputs := rfl

/-! ### `State.dropInput` -/

@[simp] theorem State.dropInput_params (s : State) : (s.dropInput).params = s.params := rfl
@[simp] theorem State.dropInput_mem (s : State) : (s.dropInput).mem = s.mem := rfl
@[simp] theorem State.dropInput_srValue (s : State) : (s.dropInput).srValue = s.srValue := rfl
@[simp] theorem State.dropInput_srOffset (s : State) : (s.dropInput).srOffset = s.srOffset := rfl
@[simp] theorem State.dropInput_p1 (s : State) : (s.dropInput).p1 = s.p1 := rfl
@[simp] theorem State.dropInput_p2 (s : State) : (s.dropInput).p2 = s.p2 := rfl
@[simp] theorem State.dropInput_cyc (s : State) : (s.dropInput).cyc = s.cyc := rfl
@[simp] theorem State.dropInput_frm (s : State) : (s.dropInput).frm = s.frm := rfl
@[simp] theorem State.dropInput_status (s : State) : (s.dropInput).status = s.status := rfl
@[simp] theorem State.dropInput_frame (s : State) : (s.dropInput).frame = s.frame := rfl
@[simp] theorem State.dropInput_constructing (s : State) : (s.dropInput).constructing = s.constructing := rfl
@[simp] theorem State.dropInput_result (s : State) : (s.dropInput).result = s.result := rfl
@[simp] theorem State.dropInput_inputs (s : State) : (s.dropInput).inputs = s.inputs.tail := rfl

/-! ### `State.applyEvent`: only the port bytes can change -/

@[simp] theorem State.applyEvent_params (s : State) (e : Event) (pressed : Bool) :
    (s.applyEvent e pressed).params = s.params := by
  unfold State.applyEvent State.writePortBit; split <;> rfl
@[simp] theorem State.applyEvent_mem (s : State) (e : Event) (pressed : Bool) :
    (s.applyEvent e pressed).mem = s.mem := by
  unfold State.applyEvent State.writePortBit; split <;> rfl
@[simp] theorem State.applyEvent_srValue (s : State) (e : Event) (pressed : Bool) :
    (s.applyEvent e pressed).srValue = s.srValue := by
  unfold State.applyEvent State.writePortBit; split <;> rfl
@[simp] theorem State.applyEvent_srOffset (s : State) (e : Event) (pressed : Bool) :
    (s.applyEvent e pressed).srOffset = s.srOffset := by
  unfold State.applyEvent State.writePortBit; split <;> rfl
@[simp] theorem State.applyEvent_cyc (s : State) (e : Event) (pressed : Bool) :
    (s.applyEvent e pressed).cyc = s.cyc := by
  unfold State.applyEvent State.writePortBit; split <;> rfl
@[simp] theorem State.applyEvent_frm (s : State) (e : Event) (pressed : Bool) :
    (s.applyEvent e pressed).frm = s.frm := by
  unfold State.applyEvent State.writePortBit; split <;> rfl
@[simp] theorem State.applyEvent_status (s : State) (e : Event) (pressed : Bool) :
    (s.applyEvent e pressed).status = s.status := by
  unfold State.applyEvent State.writePortBit; split <;> rfl
@[simp] theorem State.applyEvent_frame (s : State) (e : Event) (pressed : Bool) :
    (s.applyEvent e pressed).frame = s.frame := by
  unfold State.applyEvent State.writePortBit; split <;> rfl
@[simp] theorem State.applyEvent_constructing (s : State) (e : Event) (pressed : Bool) :
    (s.applyEvent e pressed).constructing = s.constructing := by
  unfold State.applyEvent State.writePortBit; split <;> rfl
@[simp] theorem State.applyEvent_result (s : State) (e : Event) (pressed : Bool) :
    (s.applyEvent e pressed).result = s.result := by
  unfold State.applyEvent State.writePortBit; split <;> rfl
@[simp] theorem State.applyEvent_inputs (s : State) (e : Event) (pressed : Bool) :
    (s.applyEvent e pressed).inputs = s.inputs := by
  unfold State.applyEvent State.writePortBit; split <;> rfl

theorem State.applyEvent_p1 (s : State) (e : Event) (pressed : Bool) :
    (s.applyEvent e pressed).p1 =
      if (s.params.eventMap.get e).port = .port1 then
        writeBit s.p1 (s.params.eventMap.get e).bit (eventLevel e pressed) else s.p1 := by
  unfold State.applyEvent State.writePortBit; split <;> simp_all

theorem State.applyEvent_p2 (s : State) (e : Event) (pressed : Bool) :
    (s.applyEvent e pressed).p2 =
      if (s.params.eventMap.get e).port = .port2 then
        writeBit s.p2 (s.params.eventMap.get e).bit (eventLevel e pressed) else s.p2 := by
  unfold State.applyEvent State.writePortBit; split <;> simp_all

/-! ### `State.routerFault`: memory, ports, counters and shift register stand -/

@[simp] theorem State.routerFault_params (s : State) (f : RouterFault) : (s.routerFault f).params = s.params := by
  unfold State.routerFault; split <;> rfl
@[simp] theorem State.routerFault_mem (s : State) (f : RouterFault) : (s.routerFault f).mem = s.mem := by
  unfold State.routerFault; split <;> rfl
@[simp] theorem State.routerFault_srValue (s : State) (f : RouterFault) : (s.routerFault f).srValue = s.srValue := by
  unfold State.routerFault; split <;> rfl
@[simp] theorem State.routerFault_srOffset (s : State) (f : RouterFault) : (s.routerFault f).srOffset = s.srOffset := by
  unfold State.routerFault; split <;> rfl
@[simp] theorem State.routerFault_p1 (s : State) (f : RouterFault) : (s.routerFault f).p1 = s.p1 := by
  unfold State.routerFault; split <;> rfl
@[simp] theorem State.routerFault_p2 (s : State) (f : RouterFault) : (s.routerFault f).p2 = s.p2 := by
  unfold State.routerFault; split <;> rfl
@[simp] theorem State.routerFault_cyc (s : State) (f : RouterFault) : (s.routerFault f).cyc = s.cyc := by
  unfold State.routerFault; split <;> rfl
@[simp] theorem State.routerFault_frm (s : State) (f : RouterFault) : (s.routerFault f).frm = s.frm := by
  unfold State.routerFault; split <;> rfl
@[simp] theorem State.routerFault_inputs (s : State) (f : RouterFault) : (s.routerFault f).inputs = s.inputs := by
  unfold State.routerFault; split <;> rfl
@[simp] theorem State.routerFault_constructing (s : State) (f : RouterFault) :
    (s.routerFault f).constructing = false := by
  unfold State.routerFault; split <;> rfl

/-! ### Thresholds and bank bytes read only their own fields -/

theorem State.doneThreshold_of (s t : State) (hp : t.params = s.params) (hf : t.frm = s.frm) :
    t.doneThreshold = s.doneThreshold := by
  simp [State.doneThreshold, hp, hf]

theorem State.midThreshold_of (s t : State) (hp : t.params = s.params) (hf : t.frm = s.frm) :
    t.midThreshold = s.midThreshold := by
  simp [State.midThreshold, State.doneThreshold, hp, hf]

@[simp] theorem State.returns_returns (s : State) (r r' : Result) : (s.returns r).returns r' = s.returns r' :=
  rfl

end Sys2Proof.Machine
end

