-- ==== Sys2Proof/Laws/Ops.lean ====
section
/-!
SUPPORT. One lemma per shared operation: when it answers a next state, and what that state is.
-/

namespace Sys2Proof.Machine

/-! ### Who may issue an operation -/

@[simp] theorem onLive_of_live {s : State} (h : s.status = .live) (o : Outcome) : onLive s o = o := by
  simp [onLive, h]

theorem onLive_of_dead {s : State} {e : FatalError} (h : s.status = .dead e) (o : Outcome) :
    onLive s o = .refused .deadSession := by
  simp [onLive, h]

theorem onLive_next {s t : State} {o : Outcome} (h : onLive s o = .next t) :
    s.status = .live ∧ o = .next t := by
  unfold onLive at h
  split at h
  · exact ⟨‹_›, h⟩
  · nomatch h

theorem onHost_of_idle {s : State} (h : s.status = .live) (hf : s.frame = none) (o : Outcome) :
    onHost s o = o := by
  simp [onHost, h, hf]

theorem onHost_of_running {s : State} {fr : FrameRun} (h : s.status = .live) (hf : s.frame = some fr)
    (o : Outcome) : onHost s o = .refused .frameInProgress := by
  simp [onHost, h, hf]

theorem onHost_next {s t : State} {o : Outcome} (h : onHost s o = .next t) :
    s.status = .live ∧ s.frame = none ∧ o = .next t := by
  obtain ⟨hl, h⟩ := onLive_next h
  split at h
  · exact ⟨hl, ‹_›, h⟩
  · nomatch h

theorem onConstruction_of_constructing {s : State} (h : s.status = .live) (hc : s.constructing = true)
    (o : Outcome) : onConstruction s o = o := by
  simp [onConstruction, h, hc]

theorem onConstruction_next {s t : State} {o : Outcome} (h : onConstruction s o = .next t) :
    s.status = .live ∧ s.constructing = true ∧ o = .next t := by
  obtain ⟨hl, h⟩ := onLive_next h
  split at h
  · exact ⟨hl, ‹_›, h⟩
  · nomatch h

/-! ### Who may issue a move (R297) -/

theorem onCall_of_running {s : State} {fr : FrameRun} (h : s.status = .live) (hf : s.frame = some fr)
    (o : Outcome) : onCall s o = o := by
  simp [onCall, h, hf]

theorem onCall_of_idle {s : State} (h : s.status = .live) (hf : s.frame = none) (o : Outcome) :
    onCall s o = .refused .noEngineCall := by
  simp [onCall, h, hf]

theorem onCall_next {s t : State} {o : Outcome} (h : onCall s o = .next t) :
    s.status = .live ∧ s.frame ≠ none ∧ o = .next t := by
  obtain ⟨hl, h⟩ := onLive_next h
  split at h
  · exact ⟨hl, by simp [*], h⟩
  · nomatch h

/-- A request that may be issued is executed. -/
theorem issue_of_allowed {r : Request} {s : State} (hl : s.status = .live)
    (h : isTransaction r = true → s.frame ≠ none) (o : Outcome) : issue r s o = o := by
  unfold issue
  split
  · obtain ⟨fr, hf⟩ := Option.ne_none_iff_exists'.1 (h ‹_›)
    exact onCall_of_running hl hf o
  · rfl

/-- On a dead session an outcome that refuses stays that refusal. -/
theorem issue_of_dead {r : Request} {s : State} {e : FatalError} (h : s.status = .dead e) :
    issue r s (.refused .deadSession) = .refused .deadSession := by
  unfold issue
  split
  · exact onLive_of_dead h _
  · rfl

theorem issue_next {r : Request} {s t : State} {o : Outcome} (h : issue r s o = .next t) :
    (isTransaction r = true → s.frame ≠ none) ∧ o = .next t := by
  unfold issue at h
  split at h
  · obtain ⟨-, hf, h⟩ := onCall_next h
    exact ⟨fun _ => hf, h⟩
  · exact ⟨fun hr => absurd hr ‹_›, h⟩

/-! ### The host's read of the frame buffer -/

theorem State.vram_length (s : State) : s.vram.length = 7168 := by
  simp [State.vram, Bank.size]

theorem State.frameBuffer_of_idle {s : State} (h : s.frame = none) : s.frameBuffer = some s.vram := by
  simp [State.frameBuffer, h]

theorem State.frameBuffer_of_running {s : State} {fr : FrameRun} (h : s.frame = some fr) :
    s.frameBuffer = none := by
  simp [State.frameBuffer, h]

/-! ### Faults -/

theorem State.routerFault_of_idle {s : State} (h : s.frame = none) (f : RouterFault) :
    s.routerFault f = s.returns (.fault f) := by
  simp [State.routerFault, h]

theorem State.routerFault_of_running {s : State} {fr : FrameRun} (h : s.frame = some fr) (f : RouterFault) :
    s.routerFault f = s.die (fr.call.error (.router f)) := by
  simp [State.routerFault, h]

theorem State.routerFault_frame (s : State) (f : RouterFault) : (s.routerFault f).frame = none := by
  unfold State.routerFault
  split
  · rfl
  · exact ‹s.frame = none›

/-! ### Bank bytes -/

/-- A byte stored in a bank is read back, in canonical memory. -/
theorem State.read_setBankByte_same {s : State} (h : s.mem.wf) (b : Bank) (i : Nat) (v : Byte) :
    (s.setBankByte b i v).mem.read (b.base + i) = v :=
  Memory.read_write_same h.1 _ _

/-- A store leaves every other address alone. -/
theorem State.read_setBankByte_other (s : State) (b : Bank) (i : Nat) (v : Byte) {a : Nat}
    (h : a ≠ b.base + i) : (s.setBankByte b i v).mem.read a = s.mem.read a :=
  Memory.read_write_other _ (Ne.symm h) _

/-! ### Straps and readers: the configuration fields of P2 -/

theorem readBit_withLives (p : Params) (p2 : Byte) (f : BitVec 2) (i : Fin 8) :
    readBit (withLives p p2 f) i =
      if p.p2LivesLsb.succ = i then f.getLsbD 1
      else if p.p2LivesLsb.castSucc = i then f.getLsbD 0 else readBit p2 i := by
  simp [withLives, readBit_writeBit]

theorem livesField_getLsbD (p : Params) (p2 : Byte) :
    (livesField p p2).getLsbD 0 = readBit p2 p.p2LivesLsb.castSucc ∧
      (livesField p p2).getLsbD 1 = readBit p2 p.p2LivesLsb.succ := by
  simp [livesField, readBit]

/-- The LIVES field reads as it was written. -/
theorem livesField_withLives (p : Params) (p2 : Byte) (f : BitVec 2) :
    livesField p (withLives p p2 f) = f := by
  have h := livesField_getLsbD p (withLives p p2 f)
  have hne : p.p2LivesLsb.succ ≠ p.p2LivesLsb.castSucc := by
    simp [Fin.ext_iff]
  rw [readBit_withLives, readBit_withLives, if_neg hne, if_pos rfl, if_pos rfl] at h
  apply BitVec.eq_of_getLsbD_eq
  intro i hi
  obtain rfl | rfl : i = 0 ∨ i = 1 := by omega
  · exact h.1
  · exact h.2

end Sys2Proof.Machine
end

