-- ==== Sys2Proof/Laws/Scheduler.lean ====
section
/-!
SUPPORT. The comparator of the scheduler, and the steps that take a return of the engine.
-/

namespace Sys2Proof.Machine

/-! ### The comparator (R243) -/

theorem nextCall_toDone (cyc done mid : Nat) :
    nextCall cyc .toDone done mid = if done ≤ cyc then .raise .mid else .step := by
  unfold nextCall Phase.threshold Phase.interrupt
  by_cases h : cyc < done
  · rw [if_pos h, if_neg (by omega)]
  · rw [if_neg h, if_pos (by omega)]

theorem nextCall_toMid (cyc done mid : Nat) :
    nextCall cyc .toMid done mid = if mid ≤ cyc then .raise .vblank else .step := by
  unfold nextCall Phase.threshold Phase.interrupt
  by_cases h : cyc < mid
  · rw [if_pos h, if_neg (by omega)]
  · rw [if_neg h, if_pos (by omega)]

/-- Mid is raised in the first phase alone, with the first threshold met. -/
theorem nextCall_eq_mid {cyc done mid : Nat} {ph : Phase} (h : nextCall cyc ph done mid = .raise .mid) :
    ph = .toDone ∧ done ≤ cyc := by
  cases ph
  · rw [nextCall_toDone] at h
    by_cases hd : done ≤ cyc
    · exact ⟨rfl, hd⟩
    · rw [if_neg hd] at h; nomatch h
  · rw [nextCall_toMid] at h
    split at h <;> nomatch h

/-- VBlank is raised in the second phase alone, with the second threshold met. -/
theorem nextCall_eq_vblank {cyc done mid : Nat} {ph : Phase} (h : nextCall cyc ph done mid = .raise .vblank) :
    ph = .toMid ∧ mid ≤ cyc := by
  cases ph
  · rw [nextCall_toDone] at h
    split at h <;> nomatch h
  · rw [nextCall_toMid] at h
    by_cases hd : mid ≤ cyc
    · exact ⟨rfl, hd⟩
    · rw [if_neg hd] at h; nomatch h

/-! ### Steps by the move that waits -/

theorem State.dropInput_of {s : State} {m : Input} {rest : List Input} (h : s.inputs = m :: rest) :
    s.dropInput = { s with inputs := rest } := by
  rw [State.dropInput, h, List.tail_cons]

theorem step_of_nil {s : State} (h : s.inputs = []) : step s = .next s := by
  unfold step
  rw [h]

/-- A request that may be issued (R297) is executed. -/
theorem step_of_op {s : State} {r : Request} {rest : List Input} {i : Instr} (h : s.inputs = .op r :: rest)
    (hd : decode s.params r = .ok i) (hl : s.status = .live)
    (hc : isTransaction r = true → s.frame ≠ none) : step s = exec i { s with inputs := rest } := by
  rw [← State.dropInput_of h]
  unfold step
  simp only [h, hd]
  exact issue_of_allowed hl hc _

/-- A transaction with no engine call outstanding is not executed (R297). -/
theorem step_of_op_idle {s : State} {r : Request} {rest : List Input} {i : Instr} (h : s.inputs = .op r :: rest)
    (hd : decode s.params r = .ok i) (hl : s.status = .live) (ht : isTransaction r = true)
    (hf : s.frame = none) : step s = .refused .noEngineCall := by
  unfold step
  simp only [h, hd, issue, ht, if_true]
  exact onCall_of_idle hl hf _

theorem step_of_stepReturns {s : State} {c done mid : Nat} {ph : Phase} {rest : List Input}
    (h : s.inputs = .stepReturns c :: rest) (hl : s.status = .live)
    (hf : s.frame = some ⟨ph, done, mid, .step⟩) :
    step s = .next ((State.addCycles { s with inputs := rest } c).await ph done mid) := by
  rw [← State.dropInput_of h]
  unfold step
  simp only [h]
  exact (onLive_of_live (s := s.dropInput) hl _).trans (by simp [State.dropInput, hf])

theorem step_of_midReturns {s : State} {done mid : Nat} {ph : Phase} {rest : List Input}
    (h : s.inputs = .raiseReturns :: rest) (hl : s.status = .live)
    (hf : s.frame = some ⟨ph, done, mid, .raise .mid⟩) :
    step s = .next (State.await { s with inputs := rest } .toMid done mid) := by
  rw [← State.dropInput_of h]
  unfold step
  simp only [h]
  exact (onLive_of_live (s := s.dropInput) hl _).trans (by simp [State.dropInput, hf])

theorem step_of_vblankReturns {s : State} {done mid : Nat} {ph : Phase} {rest : List Input}
    (h : s.inputs = .raiseReturns :: rest) (hl : s.status = .live)
    (hf : s.frame = some ⟨ph, done, mid, .raise .vblank⟩) :
    step s = .next (State.finishFrame { s with inputs := rest }) := by
  rw [← State.dropInput_of h]
  unfold step
  simp only [h]
  exact (onLive_of_live (s := s.dropInput) hl _).trans (by simp [State.dropInput, hf])

theorem step_of_engineFaults {s : State} {x : Nat} {fr : FrameRun} {rest : List Input}
    (h : s.inputs = .engineFaults x :: rest) (hl : s.status = .live) (hf : s.frame = some fr) :
    step s = .next (State.die { s with inputs := rest } (fr.call.error (.engineFault x))) := by
  rw [← State.dropInput_of h]
  unfold step
  simp only [h]
  exact (onLive_of_live (s := s.dropInput) hl _).trans (by simp [State.dropInput, hf])

end Sys2Proof.Machine
end

