-- ==== Sys2Proof/Laws/Engine.lean ====
section
/-!
SUPPORT. The engine as an argument: what serving one call keeps, and runs of several steps.
-/

namespace Sys2Proof.Machine

/-! ### Runs -/

/-- A run goes on from the state its first step reaches. -/
theorem run_succ {M : Host.Core} {s t : M.State} (h : M.step s = .next t) (n : Nat) :
    M.run (n + 1) s = M.run n t := by
  simp only [Host.Core.run, h]

/-- A run of `m + n` steps whose first `m` reach `t` is a run of `n` steps from `t`. -/
theorem run_add {M : Host.Core} {m : Nat} {s t : M.State} (h : M.run m s = .next t) (n : Nat) :
    M.run (m + n) s = M.run n t := by
  induction m generalizing s with
  | zero => cases h; rw [Nat.zero_add]
  | succ m ih =>
    rw [Nat.succ_add]
    unfold Host.Core.run at h
    split at h
    · rw [run_succ ‹_›]; exact ih h
    · nomatch h
    · nomatch h

/-! ### What serving an engine call keeps -/

/-- What no transaction changes: everything but memory and the shift register. -/
structure SameOutside (s t : State) : Prop where
  params : t.params = s.params
  p1 : t.p1 = s.p1
  p2 : t.p2 = s.p2
  cyc : t.cyc = s.cyc
  frm : t.frm = s.frm
  status : t.status = s.status
  frame : t.frame = s.frame
  constructing : t.constructing = s.constructing
  result : t.result = s.result
  inputs : t.inputs = s.inputs

theorem SameOutside.refl (s : State) : SameOutside s s := ⟨rfl, rfl, rfl, rfl, rfl, rfl, rfl, rfl, rfl, rfl⟩

theorem SameOutside.trans {s t u : State} (h : SameOutside s t) (k : SameOutside t u) : SameOutside s u :=
  ⟨k.1.trans h.1, k.2.trans h.2, k.3.trans h.3, k.4.trans h.4, k.5.trans h.5, k.6.trans h.6, k.7.trans h.7,
    k.8.trans h.8, k.9.trans h.9, k.10.trans h.10⟩

theorem memWrite_same {s t : State} {addr : Addr} {v : Byte} (h : s.memWrite addr v = .ok t) :
    SameOutside s t := by
  unfold State.memWrite at h
  split_ifs at h <;> cases h <;> exact ⟨rfl, rfl, rfl, rfl, rfl, rfl, rfl, rfl, rfl, rfl⟩

theorem portOut_same (s : State) (port : PortId) (v : Byte) : SameOutside s (s.portOut port v) := by
  unfold State.portOut
  split_ifs <;> exact ⟨rfl, rfl, rfl, rfl, rfl, rfl, rfl, rfl, rfl, rfl⟩

/-- An engine call changes memory and the shift register only (R245, R331). -/
theorem serve_same {ρ : Type} (a : Activity ρ) (s : State) : SameOutside s (a.serve s).2 := by
  induction a generalizing s with
  | memRead addr next ih =>
    unfold Activity.serve
    split
    · exact ih _ s
    · exact .refl s
  | memWrite addr v next ih =>
    unfold Activity.serve
    split
    · exact (memWrite_same ‹_›).trans (ih _)
    · exact .refl s
  | portIn port next ih => exact ih _ s
  | portOut port v next ih => exact (portOut_same s port v).trans (ih _)
  | returns r => exact .refl s
  | fails payload => exact .refl s

end Sys2Proof.Machine
end

