-- ==== Sys2Proof/Laws/Exec.lean ====
section
/-!
SUPPORT. What one instruction and one step can do, said once: if `exec` answers a next state, that state is one
of a short list of changes. Invariants and frames are proved by cases on the list.
-/

namespace Sys2Proof.Machine

/-- The next states an instruction can give. -/
inductive Effect (s : State) : State → Prop where
  /-- A read, an input, a discarded output, a window write, a derived reader: only the result. -/
  | returned (r : Result) : Effect s (s.returns r)
  /-- A store into RAM or VRAM. -/
  | stored (b : Bank) (i : Nat) (v : Byte) (hb : b = .ram ∨ b = .videoFrame) (hi : i < b.size) :
    Effect s ((s.setBankByte b i v).returns .ok)
  /-- SR.push. -/
  | pushed (b : Byte) : Effect s ((s.srPush b).returns .nothing)
  /-- SR.set_offset. -/
  | offsetSet (b : Byte) : Effect s ((s.srSetOffset b).returns .nothing)
  /-- A control event, between FRAME commands. -/
  | evented (e : Event) (pressed : Bool) (hf : s.frame = none) :
    Effect s ((s.applyEvent e pressed).returns .nothing)
  /-- A strap, under construction: only configuration bits of P2. -/
  | strapped (b : Byte) (hc : s.constructing = true)
    (hb : ∀ i, i ∉ s.params.configBits → readBit b i = readBit s.p2 i) : Effect s (s.strap b)
  /-- A memory transaction that faulted. -/
  | faulted (f : RouterFault) : Effect s (s.routerFault f)
  /-- FRAME, between FRAME commands. -/
  | began (hf : s.frame = none) :
    Effect s s.beginFrame

theorem readBank_next {b : Bank} {addr : Addr} {s t : State} (h : readBank b addr s = .next t) :
    s.status = .live ∧ Effect s t := by
  obtain ⟨hl, h⟩ := onLive_next h
  cases h
  exact ⟨hl, .returned _⟩

theorem readMirror_next {addr : Addr} {s t : State} (h : readMirror addr s = .next t) :
    s.status = .live ∧ Effect s t := by
  obtain ⟨hl, h⟩ := onLive_next h
  cases h
  exact ⟨hl, .faulted _⟩

theorem writeBank_next {b : Bank} {addr : Addr} {data : Byte} {s t : State}
    (hb : b = .ram ∨ b = .videoFrame) (hi : bankIndex b addr < b.size)
    (h : writeBank b addr data s = .next t) : s.status = .live ∧ Effect s t := by
  obtain ⟨hl, h⟩ := onLive_next h
  cases h
  exact ⟨hl, .stored b _ _ hb hi⟩

theorem writeWindow_next {addr : Addr} {data : Byte} {s t : State} (h : writeWindow addr data s = .next t) :
    s.status = .live ∧ Effect s t := by
  obtain ⟨hl, h⟩ := onLive_next h
  cases h
  exact ⟨hl, .returned _⟩

theorem writeRom_next {addr : Addr} {data : Byte} {s t : State} (h : writeRom addr data s = .next t) :
    s.status = .live ∧ Effect s t := by
  obtain ⟨hl, h⟩ := onLive_next h
  cases h
  exact ⟨hl, .faulted _⟩

theorem writeMirror_next {addr : Addr} {data : Byte} {s t : State} (h : writeMirror addr data s = .next t) :
    s.status = .live ∧ Effect s t := by
  obtain ⟨hl, h⟩ := onLive_next h
  cases h
  exact ⟨hl, .faulted _⟩

theorem input_next {b : Byte} {s t : State} (h : input b s = .next t) : s.status = .live ∧ Effect s t := by
  obtain ⟨hl, h⟩ := onLive_next h
  cases h
  exact ⟨hl, .returned _⟩

/-- An output whose work is nothing. -/
theorem output_next {s t : State} (h : output s s = .next t) : s.status = .live ∧ Effect s t := by
  obtain ⟨hl, h⟩ := onLive_next h
  cases h
  exact ⟨hl, .returned _⟩

theorem output_push_next {b : Byte} {s t : State} (h : output s (s.srPush b) = .next t) :
    s.status = .live ∧ Effect s t := by
  obtain ⟨hl, h⟩ := onLive_next h
  cases h
  exact ⟨hl, .pushed _⟩

theorem output_offset_next {b : Byte} {s t : State} (h : output s (s.srSetOffset b) = .next t) :
    s.status = .live ∧ Effect s t := by
  obtain ⟨hl, h⟩ := onLive_next h
  cases h
  exact ⟨hl, .offsetSet _⟩

theorem event_next {e : Event} {pressed : Bool} {s t : State} (h : event e pressed s = .next t) :
    s.status = .live ∧ Effect s t := by
  obtain ⟨hl, hf, h⟩ := onHost_next h
  cases h
  exact ⟨hl, .evented _ _ hf⟩

/-- A strap that writes only configuration bits. -/
theorem strap_next {b : Byte} {s t : State}
    (hb : ∀ i, i ∉ s.params.configBits → readBit b i = readBit s.p2 i)
    (h : onConstruction s (.next (s.strap b)) = .next t) : s.status = .live ∧ Effect s t := by
  obtain ⟨hl, hc, h⟩ := onConstruction_next h
  cases h
  exact ⟨hl, .strapped _ hc hb⟩

theorem host_returns_next {r : Result} {s t : State} (h : onHost s (.next (s.returns r)) = .next t) :
    s.status = .live ∧ Effect s t := by
  obtain ⟨hl, -, h⟩ := onHost_next h
  cases h
  exact ⟨hl, .returned _⟩

theorem withLives_config {p : Params} {p2 : Byte} {f : BitVec 2} (i : Fin 8) (h : i ∉ p.configBits) :
    readBit (withLives p p2 f) i = readBit p2 i := by
  simp only [Params.configBits, List.mem_cons, not_or] at h
  rw [readBit_withLives, if_neg (Ne.symm h.2.1), if_neg (Ne.symm h.1)]

theorem writeBit_config {p : Params} {p2 : Byte} {j : Fin 8} {v : Bool} (hj : j ∈ p.configBits) (i : Fin 8)
    (h : i ∉ p.configBits) : readBit (writeBit p2 j v) i = readBit p2 i := by
  have hne : j ≠ i := fun hji => h (hji ▸ hj)
  rw [readBit_writeBit, if_neg hne]

/-- The bank index of a filled address: the free bits and the distance of the row from its bank. -/
theorem bankIndex_fill {n : Nat} (b : Bank) (fixed : Addr) (free : BitVec n)
    (h : fixed.toNat + 2 ^ n ≤ 2 ^ 16) (hb : b.base ≤ fixed.toNat) :
    bankIndex b (fill fixed free) = fixed.toNat - b.base + free.toNat := by
  rw [bankIndex, fill_toNat fixed free h]
  omega

/-- If an instruction answers a next state, the session is live and the state is one of `Effect`. -/
theorem exec_next {i : Instr} {s t : State} (h : exec i s = .next t) : s.status = .live ∧ Effect s t := by
  cases i with
  | memrdRom | memrdRam | memrdVramA | memrdVramB | memrdVramC => exact readBank_next h
  | memrdMirrorA | memrdMirrorB => exact readMirror_next h
  | memwrRom => exact writeRom_next h
  | memwrRam a =>
    refine writeBank_next (.inl rfl) ?_ h
    have := a.isLt
    rw [bankIndex_fill _ _ _ (by decide) (by decide)]; simp [Bank.base, Bank.size]; omega
  | memwrVramA a =>
    refine writeBank_next (.inr rfl) ?_ h
    have := a.isLt
    rw [bankIndex_fill _ _ _ (by decide) (by decide)]; simp [Bank.base, Bank.size]; omega
  | memwrVramB a =>
    refine writeBank_next (.inr rfl) ?_ h
    have := a.isLt
    rw [bankIndex_fill _ _ _ (by decide) (by decide)]; simp [Bank.base, Bank.size]; omega
  | memwrVramC a =>
    refine writeBank_next (.inr rfl) ?_ h
    have := a.isLt
    rw [bankIndex_fill _ _ _ (by decide) (by decide)]; simp [Bank.base, Bank.size]; omega
  | memwrWindow a data => exact writeWindow_next (addr := fill 0x4000#16 a) (data := data) h
  | memwrMirrorA | memwrMirrorB | memwrMirrorC | memwrMirrorD | memwrMirrorE | memwrMirrorF =>
    exact writeMirror_next h
  | inP1 | inP2 | inShift | inUnknownA | inUnknownB | inUnknownC | inUnknownD | inUnknownE | inUnknownF
  | inUnknownG => exact input_next h
  | outShiftOffset => exact output_offset_next h
  | outShiftData => exact output_push_next h
  | outSoundA | outSoundB | outWatchdog | outUnknownA | outUnknownB | outUnknownC | outUnknownD
  | outUnknownE | outUnknownF | outUnknownG => exact output_next h
  | evtCoin | evtTilt | evtP1Start | evtP1Shoot | evtP1Left | evtP1Right | evtP2Start | evtP2Shoot
  | evtP2Left | evtP2Right => exact event_next h
  | cfgLives => exact strap_next (fun i hi => withLives_config i hi) h
  | cfgCoininfo => exact strap_next (fun i hi => writeBit_config (by simp [Params.configBits]) i hi) h
  | cfgBonus => exact strap_next (fun i hi => writeBit_config (by simp [Params.configBits]) i hi) h
  | livesQ | bonusQ => exact host_returns_next h
  | frame =>
    obtain ⟨hl, hf, h⟩ := onHost_next h
    cases h
    exact ⟨hl, .began hf⟩
  | srPush => exact output_push_next h
  | srRead => exact input_next h
  | srSetOffset => exact output_offset_next h

/-- What one step can do: nothing, with no move waiting; an instruction; or a return of the engine. -/
inductive Move (s : State) : State → Prop where
  | idle (h : s.inputs = []) : Move s s
  | executed (r : Request) (rest : List Input) (i : Instr) (t : State) (h : s.inputs = .op r :: rest)
    (hd : decode s.params r = .ok i) (he : exec i s.dropInput = .next t)
    (hc : isTransaction r = true → s.frame ≠ none) : Move s t
  | stepReturned (cycles : Nat) (rest : List Input) (ph : Phase) (done mid : Nat)
    (h : s.inputs = .stepReturns cycles :: rest) (hf : s.frame = some ⟨ph, done, mid, .step⟩) :
    Move s ((s.dropInput.addCycles cycles).await ph done mid)
  | midReturned (rest : List Input) (ph : Phase) (done mid : Nat) (h : s.inputs = .raiseReturns :: rest)
    (hf : s.frame = some ⟨ph, done, mid, .raise .mid⟩) : Move s (s.dropInput.await .toMid done mid)
  | vblankReturned (rest : List Input) (ph : Phase) (done mid : Nat) (h : s.inputs = .raiseReturns :: rest)
    (hf : s.frame = some ⟨ph, done, mid, .raise .vblank⟩) : Move s s.dropInput.finishFrame
  | engineFaulted (payload : Nat) (rest : List Input) (fr : FrameRun)
    (h : s.inputs = .engineFaults payload :: rest) (hf : s.frame = some fr) :
    Move s (s.dropInput.die (fr.call.error (.engineFault payload)))

/-- If a step answers a next state, it is one of `Move`, and the session was live unless no move was
waiting. -/
theorem step_next {s t : State} (h : step s = .next t) :
    (s.inputs ≠ [] → s.status = .live) ∧ Move s t := by
  unfold step at h
  split at h
  · cases h; exact ⟨fun hn => absurd ‹_› hn, .idle ‹_›⟩
  · split at h
    · obtain ⟨hc, h⟩ := issue_next h
      exact ⟨fun _ => (exec_next h).1, .executed _ _ _ _ ‹_› ‹_› h hc⟩
    · nomatch h
  · obtain ⟨hl, h⟩ := onLive_next h
    refine ⟨fun _ => hl, ?_⟩
    split at h
    · rename_i hf
      cases h
      exact .stepReturned _ _ _ _ _ ‹_› hf
    · nomatch h
  · obtain ⟨hl, h⟩ := onLive_next h
    refine ⟨fun _ => hl, ?_⟩
    split at h
    · rename_i hf
      cases h
      exact .midReturned _ _ _ _ ‹_› hf
    · rename_i hf
      cases h
      exact .vblankReturned _ _ _ _ ‹_› hf
    · nomatch h
  · obtain ⟨hl, h⟩ := onLive_next h
    refine ⟨fun _ => hl, ?_⟩
    split at h
    · rename_i hf
      cases h
      exact .engineFaulted _ _ _ ‹_› hf
    · nomatch h

end Sys2Proof.Machine
end

