-- ==== Sys2Proof/Laws/Session.lean ====
section
/-!
SUPPORT. What construction puts into memory: the ROM image, a RAM of zeros and the host's frame buffer.
-/

namespace Sys2Proof.Machine

variable {p : Params} {rom vram : List Byte}

theorem constructed_rom (hr : rom.length = 8192) {i : Nat} (hi : i < 8192) :
    (State.constructed p rom vram).bankByte .rom i = rom[i]'(by omega) := by
  refine Memory.read_image_append _ rom _ i (by omega) fun c hc => ?_
  have := (Memory.mem_image hc).1
  simp only [Bank.base] at this ⊢
  omega

theorem constructed_ram (hr : rom.length = 8192) {i : Nat} (hi : i < 1024) :
    (State.constructed p rom vram).bankByte .ram i = 0x00 := by
  rw [State.bankByte, State.constructed, Memory.read_append_of_not_mem, Memory.read_of_lt]
  · rfl
  · intro c hc
    have := (Memory.mem_image hc).1
    simp only [Bank.base] at this ⊢
    omega
  · intro c hc
    have := (Memory.mem_image hc).2.1
    simp only [Bank.base] at this ⊢
    omega

theorem constructed_vram (hr : rom.length = 8192) (hv : vram.length = 7168) {i : Nat} (hi : i < 7168) :
    (State.constructed p rom vram).bankByte .videoFrame i = vram[i]'(by omega) := by
  rw [State.bankByte, State.constructed, Memory.read_append_of_not_mem]
  · have := Memory.read_image_append Bank.videoFrame.base vram [] i (by omega) (by simp)
    rwa [List.append_nil] at this
  · intro c hc
    have := (Memory.mem_image hc).2.1
    simp only [Bank.base] at this ⊢
    omega

/-- Memory is canonical after construction. -/
theorem constructed_mem_wf (hr : rom.length = 8192) (hv : vram.length = 7168) :
    (State.constructed p rom vram).mem.wf := by
  refine ⟨List.pairwise_append.2 ⟨Memory.pairwise_image _ _, Memory.pairwise_image _ _, ?_⟩, ?_⟩
  · intro c hc d hd
    have := (Memory.mem_image hc).2.1
    have := (Memory.mem_image hd).1
    simp only [Bank.base] at *
    omega
  · intro c hc
    rcases List.mem_append.1 hc with hc | hc <;> have := Memory.mem_image hc <;> refine ⟨this.2.2, ?_⟩ <;>
      simp only [Bank.base, storageEnd] at * <;> omega

end Sys2Proof.Machine
end

