-- ==== Sys2Proof/Tests/Slice0.lean ====
section
/-!
SUPPORT. Tests: ill-formed instructions, words written out from the decode tables, the spec's own vectors
(spec/95_test_vectors.md, cited by number), and for every obligation with hypotheses a state that meets them.
-/

namespace Sys2Proof.Tests

open Sys2Proof Sys2Proof.Machine

/-! ### Small states -/

/-- The next state of an outcome. -/
def after : Outcome → Option State
  | .next s => some s
  | .fault _ => none
  | .refused _ => none

/-- What the operation returned. -/
def resultOf (o : Outcome) : Option Result := (after o).map (·.result)

/-- After reset, with a byte at both ends of every row of the three banks, and 0x67AC and 2 in the shift
register (the start of vectors IO1 to IO14). -/
def s0 : State where
  params := Params.default
  mem := [(0x0000, 0x01), (0x1FFF, 0xFA), (0x2000, 0x11), (0x23FF, 0x33), (0x2400, 0xEE), (0x27FF, 0x27),
    (0x2800, 0x28), (0x2FFF, 0x2F), (0x3000, 0x30), (0x3FFF, 0x80)]
  srValue := 0x67AC
  srOffset := 2
  p1 := 0x01
  p2 := 0x00
  cyc := 0
  frm := 1
  status := .live
  frame := none
  constructing := true
  result := .nothing
  inputs := []

/-- A first FRAME waiting for `call`, with CYC at `cyc`. -/
def running (ph : Phase) (call : Call) (cyc : Nat) : State :=
  { s0 with frame := some ⟨ph, 33332, 49998, call⟩, cyc := cyc, constructing := false }

/-- A dead session. -/
def dead : State := { s0 with status := .dead (.ofStep (.engineFault 7)), constructing := false }

/-- A session with these moves waiting. -/
def moves (s : State) (is : List Input) : State := { s with inputs := is }

/-- The shift register at these values. -/
def sr (v : BitVec 16) (o : BitVec 3) : State := { s0 with srValue := v, srOffset := o }

/-- Parameters with other output ids: those of the default and two more bits. -/
def oddIds (a b c d e : PortId) : Params :=
  { Params.default with outShiftOffset := a, outSoundA := b, outShiftData := c, outSoundB := d,
                        outWatchdog := e }

/-! ### Well-formedness: an ill-formed term for each check, and a well-formed one beside it -/

theorem test_default_params_wf : Params.default.wf := by decide

theorem test_reset_memory_wf : State.reset.mem.wf := by decide

theorem test_equal_ids_refused : ¬(oddIds 2 3 2 5 6).wf := by decide

theorem test_event_on_config_bit_refused :
    ¬({ Params.default with p2BonusBit := 2 } : Params).wf := by decide

theorem test_zero_budget_refused : ¬({ Params.default with halfFrameBudget := 0 } : Params).wf := by decide

theorem test_wf_outUnknownA :
    (Instr.outUnknownA 1 0).wf (oddIds 1 3 4 5 6) = false ∧ (Instr.outUnknownA 1 0).wf Params.default = true := by
  decide

theorem test_wf_outUnknownB :
    (Instr.outUnknownB 4 0).wf Params.default = false ∧ (Instr.outUnknownB 1 0).wf Params.default = false ∧
    (Instr.outUnknownB 8 0).wf Params.default = false ∧ (Instr.outUnknownB 7 0).wf Params.default = true ∧
    (Instr.outUnknownB 2 0).wf (oddIds 1 3 4 5 6) = true := by decide

theorem test_wf_outUnknownC :
    (Instr.outUnknownC 1 0).wf (oddIds 9 3 4 5 6) = false ∧ (Instr.outUnknownC 1 0).wf Params.default = true := by
  decide

theorem test_wf_outUnknownD :
    (Instr.outUnknownD 2 0).wf (oddIds 0x12 3 4 5 6) = false ∧
    (Instr.outUnknownD 2 0).wf Params.default = true := by decide

theorem test_wf_outUnknownE :
    (Instr.outUnknownE 3 0).wf (oddIds 0x23 3 4 5 6) = false ∧
    (Instr.outUnknownE 3 0).wf Params.default = true := by decide

theorem test_wf_outUnknownF :
    (Instr.outUnknownF 4 0).wf (oddIds 0x44 3 4 5 6) = false ∧
    (Instr.outUnknownF 4 0).wf Params.default = true := by decide

theorem test_wf_outUnknownG :
    (Instr.outUnknownG 5 0).wf (oddIds 0x85 3 4 5 6) = false ∧
    (Instr.outUnknownG 5 0).wf Params.default = true := by decide

/-! ### Decoding: words written out from the patterns of R101 to R104 -/

theorem test_decode_memRd :
    decode Params.default (.memRd 0b0001010101010101) = .ok (.memrdRom 0b1010101010101) ∧
    decode Params.default (.memRd 0b0010001000000011) = .ok (.memrdRam 0b1000000011) ∧
    decode Params.default (.memRd 0b0010011000000011) = .ok (.memrdVramA 0b1000000011) ∧
    decode Params.default (.memRd 0b0010110000000101) = .ok (.memrdVramB 0b10000000101) ∧
    decode Params.default (.memRd 0b0011100000001001) = .ok (.memrdVramC 0b100000001001) ∧
    decode Params.default (.memRd 0b0110000000000001) = .ok (.memrdMirrorA 0b10000000000001) ∧
    decode Params.default (.memRd 0b1100000000000001) = .ok (.memrdMirrorB 0b100000000000001) := by decide

theorem test_decode_memWr :
    decode Params.default (.memWr 0b0001000000000001 0xC3) = .ok (.memwrRom 0b1000000000001 0xC3) ∧
    decode Params.default (.memWr 0b0010001000000011 0xC3) = .ok (.memwrRam 0b1000000011 0xC3) ∧
    decode Params.default (.memWr 0b0010011000000011 0xC3) = .ok (.memwrVramA 0b1000000011 0xC3) ∧
    decode Params.default (.memWr 0b0010110000000101 0xC3) = .ok (.memwrVramB 0b10000000101 0xC3) ∧
    decode Params.default (.memWr 0b0011100000001001 0xC3) = .ok (.memwrVramC 0b100000001001 0xC3) ∧
    decode Params.default (.memWr 0b0100000100000011 0xC3) = .ok (.memwrWindow 0b100000011 0xC3) ∧
    decode Params.default (.memWr 0b0100001100000011 0xC3) = .ok (.memwrMirrorA 0b100000011 0xC3) ∧
    decode Params.default (.memWr 0b0100011000000011 0xC3) = .ok (.memwrMirrorB 0b1000000011 0xC3) ∧
    decode Params.default (.memWr 0b0100110000000011 0xC3) = .ok (.memwrMirrorC 0b10000000011 0xC3) ∧
    decode Params.default (.memWr 0b0101100000000011 0xC3) = .ok (.memwrMirrorD 0b100000000011 0xC3) ∧
    decode Params.default (.memWr 0b0111000000000011 0xC3) = .ok (.memwrMirrorE 0b1000000000011 0xC3) ∧
    decode Params.default (.memWr 0b1100000000000011 0xC3) = .ok (.memwrMirrorF 0b100000000000011 0xC3) := by
  decide

theorem test_decode_ioIn :
    decode Params.default (.ioIn 0b00000001) = .ok .inP1 ∧
    decode Params.default (.ioIn 0b00000010) = .ok .inP2 ∧
    decode Params.default (.ioIn 0b00000011) = .ok .inShift ∧
    decode Params.default (.ioIn 0b00000000) = .ok .inUnknownA ∧
    decode Params.default (.ioIn 0b00000110) = .ok (.inUnknownB 0b10) ∧
    decode Params.default (.ioIn 0b00001101) = .ok (.inUnknownC 0b101) ∧
    decode Params.default (.ioIn 0b00011001) = .ok (.inUnknownD 0b1001) ∧
    decode Params.default (.ioIn 0b00110001) = .ok (.inUnknownE 0b10001) ∧
    decode Params.default (.ioIn 0b01100001) = .ok (.inUnknownF 0b100001) ∧
    decode Params.default (.ioIn 0b10000001) = .ok (.inUnknownG 0b0000001) := by decide

theorem test_decode_ioOut :
    decode Params.default (.ioOut 0b00000010 0x5A) = .ok (.outShiftOffset 0x5A) ∧
    decode Params.default (.ioOut 0b00000011 0x5A) = .ok (.outSoundA 0x5A) ∧
    decode Params.default (.ioOut 0b00000100 0x5A) = .ok (.outShiftData 0x5A) ∧
    decode Params.default (.ioOut 0b00000101 0x5A) = .ok (.outSoundB 0x5A) ∧
    decode Params.default (.ioOut 0b00000110 0x5A) = .ok (.outWatchdog 0x5A) ∧
    decode Params.default (.ioOut 0b00000001 0x5A) = .ok (.outUnknownA 0b1 0x5A) ∧
    decode Params.default (.ioOut 0b00000111 0x5A) = .ok (.outUnknownB 7 0x5A) ∧
    decode Params.default (.ioOut 0b00001101 0x5A) = .ok (.outUnknownC 0b101 0x5A) ∧
    decode Params.default (.ioOut 0b00011001 0x5A) = .ok (.outUnknownD 0b1001 0x5A) ∧
    decode Params.default (.ioOut 0b00110001 0x5A) = .ok (.outUnknownE 0b10001 0x5A) ∧
    decode Params.default (.ioOut 0b01100001 0x5A) = .ok (.outUnknownF 0b100001 0x5A) ∧
    decode Params.default (.ioOut 0b10000001 0x5A) = .ok (.outUnknownG 0b0000001 0x5A) := by decide

theorem test_decode_evt :
    decode Params.default (.evt .coin true) = .ok (.evtCoin true) ∧
    decode Params.default (.evt .tilt true) = .ok (.evtTilt true) ∧
    decode Params.default (.evt .p1Start true) = .ok (.evtP1Start true) ∧
    decode Params.default (.evt .p1Shoot true) = .ok (.evtP1Shoot true) ∧
    decode Params.default (.evt .p1Left true) = .ok (.evtP1Left true) ∧
    decode Params.default (.evt .p1Right true) = .ok (.evtP1Right true) ∧
    decode Params.default (.evt .p2Start true) = .ok (.evtP2Start true) ∧
    decode Params.default (.evt .p2Shoot true) = .ok (.evtP2Shoot true) ∧
    decode Params.default (.evt .p2Left true) = .ok (.evtP2Left true) ∧
    decode Params.default (.evt .p2Right false) = .ok (.evtP2Right false) := by decide

theorem test_decode_cfg_cmd :
    decode Params.default (.cfgLives 5) = .ok (.cfgLives 5) ∧
    decode Params.default (.cfgCoininfo false) = .ok (.cfgCoininfo false) ∧
    decode Params.default (.cfgBonus true) = .ok (.cfgBonus true) ∧
    decode Params.default (.cmd .lives) = .ok .livesQ ∧
    decode Params.default (.cmd .bonus) = .ok .bonusQ ∧
    decode Params.default (.cmd .frame) = .ok .frame := by decide

/-- The micro-operations have no encoding (R108). -/
theorem test_micro_no_encoding :
    encode Params.default (.srPush 1) = none ∧ encode Params.default .srRead = none ∧
    encode Params.default (.srSetOffset 1) = none := by decide

/-- With other ids the freed ids 2 to 6 are undecoded (section 9 of the vectors). -/
theorem test_decode_other_ids :
    decode (oddIds 1 9 4 5 6) (.ioOut 2 0x5A) = .ok (.outUnknownB 2 0x5A) ∧
    decode (oddIds 1 9 4 5 6) (.ioOut 1 0x5A) = .ok (.outShiftOffset 0x5A) ∧
    decode (oddIds 1 9 4 5 6) (.ioOut 9 0x5A) = .ok (.outSoundA 0x5A) := by decide

/-- A bare word of the table: 16 bits an address to write, 8 bits an output port (log 10). -/
theorem test_decode_table_word :
    decodeTableWord 16 0x4000 = some (.memwrWindow 0 0) ∧ decodeTableWord 8 0x04 = some (.outShiftData 0) ∧
    decodeTableWord 32 0 = none ∧ decodeTableWord 8 0x100 = none := by decide

/-! ### Memory (vectors M1 to M21) -/

/-- M1, M2, and both ends of every other row of a bank. -/
theorem test_read_rom :
    resultOf (exec (.memrdRom 0) s0) = some (.byte 0x01) ∧
    resultOf (exec (.memrdRom 0x1FFF) s0) = some (.byte 0xFA) := by decide

theorem test_read_ram :
    resultOf (exec (.memrdRam 0) s0) = some (.byte 0x11) ∧
    resultOf (exec (.memrdRam 0x3FF) s0) = some (.byte 0x33) ∧
    resultOf (exec (.memrdRam 1) s0) = some (.byte 0x00) := by decide

theorem test_read_vram :
    resultOf (exec (.memrdVramA 0) s0) = some (.byte 0xEE) ∧
    resultOf (exec (.memrdVramA 0x3FF) s0) = some (.byte 0x27) ∧
    resultOf (exec (.memrdVramB 0) s0) = some (.byte 0x28) ∧
    resultOf (exec (.memrdVramB 0x7FF) s0) = some (.byte 0x2F) ∧
    resultOf (exec (.memrdVramC 0) s0) = some (.byte 0x30) ∧
    resultOf (exec (.memrdVramC 0xFFF) s0) = some (.byte 0x80) := by decide

/-- M11, M16. -/
theorem test_read_mirror :
    resultOf (exec (.memrdMirrorA 0) s0) = some (.fault (.unmappedAccess (.read 0x4000))) ∧
    resultOf (exec (.memrdMirrorA 0x3FFF) s0) = some (.fault (.unmappedAccess (.read 0x7FFF))) ∧
    resultOf (exec (.memrdMirrorB 0) s0) = some (.fault (.unmappedAccess (.read 0x8000))) ∧
    resultOf (exec (.memrdMirrorB 0x7FFF) s0) = some (.fault (.unmappedAccess (.read 0xFFFF))) := by decide

/-- M3, M4: the fault, and ROM as it was. -/
theorem test_write_rom :
    resultOf (exec (.memwrRom 0x1FFF 0x5A) s0) = some (.fault (.illegalWrite 0x1FFF 0x5A)) ∧
    (after (exec (.memwrRom 0x1FFF 0x5A) s0)).map (·.mem) = some s0.mem := by decide

/-- M6, M7, M10: both ends of RAM and of VRAM, and a zero that leaves the list of bytes. -/
theorem test_write_banks :
    (after (exec (.memwrRam 0 0x5A) s0)).map (·.mem.read 0x2000) = some 0x5A ∧
    (after (exec (.memwrRam 0x3FF 0xA5) s0)).map (·.mem.read 0x23FF) = some 0xA5 ∧
    (after (exec (.memwrVramA 0 0x01) s0)).map (·.mem.read 0x2400) = some 0x01 ∧
    (after (exec (.memwrVramB 0x7FF 0x02) s0)).map (·.mem.read 0x2FFF) = some 0x02 ∧
    (after (exec (.memwrVramC 0xFFF 0x03) s0)).map (·.mem.read 0x3FFF) = some 0x03 ∧
    (after (exec (.memwrVramC 0xFFF 0x00) s0)).map (·.mem) = some s0.mem.dropLast := by decide

/-- M12, M13. -/
theorem test_write_window :
    resultOf (exec (.memwrWindow 0x1FF 0x5A) s0) = some .ok ∧
    (after (exec (.memwrWindow 0 0x5A) s0)).map (·.mem) = some s0.mem := by decide

/-- M14, M17, M21, and both ends of the six rows. -/
theorem test_write_mirror :
    resultOf (exec (.memwrMirrorA 0 0x5A) s0) = some (.fault (.unmappedAccess (.write 0x4200 0x5A))) ∧
    resultOf (exec (.memwrMirrorB 0 0x5A) s0) = some (.fault (.unmappedAccess (.write 0x4400 0x5A))) ∧
    resultOf (exec (.memwrMirrorC 0 0x5A) s0) = some (.fault (.unmappedAccess (.write 0x4800 0x5A))) ∧
    resultOf (exec (.memwrMirrorD 0xFFF 0x5A) s0) = some (.fault (.unmappedAccess (.write 0x5FFF 0x5A))) ∧
    resultOf (exec (.memwrMirrorE 0 0x55) s0) = some (.fault (.unmappedAccess (.write 0x6000 0x55))) ∧
    resultOf (exec (.memwrMirrorF 0 0x00) s0) = some (.fault (.unmappedAccess (.write 0x8000 0x00))) ∧
    resultOf (exec (.memwrMirrorF 0x7FFF 0) s0) = some (.fault (.unmappedAccess (.write 0xFFFF 0))) := by decide

/-! ### Shift register (source examples S6 to S11, vectors H1 to H21) -/

/-- S6 to S9 and H19. -/
theorem test_sr_read :
    resultOf (exec .srRead (sr 0x67AC 0)) = some (.byte 0x67) ∧
    resultOf (exec .srRead (sr 0x67AC 1)) = some (.byte 0xCF) ∧
    resultOf (exec .srRead (sr 0x67AC 2)) = some (.byte 0x9E) ∧
    resultOf (exec .srRead (sr 0x67AC 7)) = some (.byte 0xD6) ∧
    resultOf (exec .srRead (sr 0x8001 7)) = some (.byte 0x00) := by decide

/-- S11, H9 and H12. -/
theorem test_sr_push :
    after (exec (.srPush 0xD4) (sr 0x67AC 5)) = some { sr 0xD467 5 with constructing := false } ∧
    after (exec (.srPush 0x00) (sr 0xFFFF 0)) = some { sr 0x00FF 0 with constructing := false } := by decide

/-- S10, H15 to H17. -/
theorem test_sr_set_offset :
    after (exec (.srSetOffset 9) (sr 0x67AC 3)) = some { sr 0x67AC 1 with constructing := false } ∧
    after (exec (.srSetOffset 0xF8) (sr 0x67AC 3)) = some { sr 0x67AC 0 with constructing := false } ∧
    after (exec (.srSetOffset 0xFF) (sr 0x67AC 3)) = some { sr 0x67AC 7 with constructing := false } := by decide

/-! ### Ports (vectors IO1 to IO14) -/

/-- IO1 to IO5. -/
theorem test_in :
    resultOf (exec .inP1 s0) = some (.byte 0x01) ∧ resultOf (exec .inP2 { s0 with p2 := 0x82 }) = some (.byte 0x82) ∧
    resultOf (exec .inShift s0) = some (.byte 0x9E) ∧ resultOf (exec .inUnknownA s0) = some (.byte 0xFF) ∧
    resultOf (exec (.inUnknownB 0) s0) = some (.byte 0xFF) ∧
    resultOf (exec (.inUnknownC 1) s0) = some (.byte 0xFF) ∧
    resultOf (exec (.inUnknownD 2) s0) = some (.byte 0xFF) ∧
    resultOf (exec (.inUnknownE 3) s0) = some (.byte 0xFF) ∧
    resultOf (exec (.inUnknownF 4) s0) = some (.byte 0xFF) ∧
    resultOf (exec (.inUnknownG 1) s0) = some (.byte 0xFF) := by decide

/-- IO7, IO8. -/
theorem test_out_shift :
    after (exec (.outShiftData 0xD4) s0) = some { sr 0xD467 2 with constructing := false } ∧
    after (exec (.outShiftOffset 0x09) s0) = some { sr 0x67AC 1 with constructing := false } := by decide

/-- IO9 to IO12. -/
theorem test_out_discarded :
    after (exec (.outSoundA 0xFF) s0) = some { s0 with constructing := false } ∧
    after (exec (.outSoundB 0xFF) s0) = some { s0 with constructing := false } ∧
    after (exec (.outWatchdog 1) s0) = some { s0 with constructing := false } ∧
    after (exec (.outUnknownA 1 0xFF) s0) = some { s0 with constructing := false } ∧
    after (exec (.outUnknownB 7 0xAA) s0) = some { s0 with constructing := false } ∧
    after (exec (.outUnknownC 0 0xAA) s0) = some { s0 with constructing := false } ∧
    after (exec (.outUnknownD 0 0xAA) s0) = some { s0 with constructing := false } ∧
    after (exec (.outUnknownE 0 0xAA) s0) = some { s0 with constructing := false } ∧
    after (exec (.outUnknownF 0 0xAA) s0) = some { s0 with constructing := false } ∧
    after (exec (.outUnknownG 0x7F 0xAA) s0) = some { s0 with constructing := false } := by decide

/-! ### Events (vectors EV1 to EV15) -/

/-- P1 and P2 after an operation. -/
def ports (o : Outcome) : Option (Byte × Byte) := (after o).map fun s => (s.p1, s.p2)

/-- EV1 to EV8. -/
theorem test_events_port1 :
    ports (exec (.evtCoin true) s0) = some (0x00, 0x00) ∧
    ports (exec (.evtCoin false) { s0 with p1 := 0x00 }) = some (0x01, 0x00) ∧
    ports (exec (.evtP2Start true) s0) = some (0x03, 0x00) ∧
    ports (exec (.evtP1Start true) s0) = some (0x05, 0x00) ∧
    ports (exec (.evtP1Shoot true) s0) = some (0x11, 0x00) ∧
    ports (exec (.evtP1Left true) s0) = some (0x21, 0x00) ∧
    ports (exec (.evtP1Right true) s0) = some (0x41, 0x00) ∧
    ports (exec (.evtP1Shoot false) { s0 with p1 := 0x11 }) = some (0x01, 0x00) := by decide

/-- EV9 to EV12. -/
theorem test_events_port2 :
    ports (exec (.evtTilt true) s0) = some (0x01, 0x04) ∧
    ports (exec (.evtP2Shoot true) s0) = some (0x01, 0x10) ∧
    ports (exec (.evtP2Left true) s0) = some (0x01, 0x20) ∧
    ports (exec (.evtP2Right true) s0) = some (0x01, 0x40) ∧
    ports (exec (.evtP2Right false) { s0 with p2 := 0xFF }) = some (0x01, 0xBF) := by decide

/-! ### Straps and readers (vectors CF1 to CF19) -/

/-- CF1, CF4 to CF9. -/
theorem test_cfg_lives :
    ports (exec (.cfgLives 0) s0) = some (0x01, 0x00) ∧ ports (exec (.cfgLives 3) s0) = some (0x01, 0x00) ∧
    ports (exec (.cfgLives 4) s0) = some (0x01, 0x01) ∧ ports (exec (.cfgLives 5) s0) = some (0x01, 0x02) ∧
    ports (exec (.cfgLives 6) s0) = some (0x01, 0x03) ∧ ports (exec (.cfgLives 1000) s0) = some (0x01, 0x03) ∧
    ports (exec (.cfgLives 4) { s0 with p2 := 0x8B }) = some (0x01, 0x89) := by decide

/-- CF10 to CF13. -/
theorem test_cfg_coininfo_bonus :
    ports (exec (.cfgCoininfo true) { s0 with p2 := 0xFF }) = some (0x01, 0x7F) ∧
    ports (exec (.cfgCoininfo false) s0) = some (0x01, 0x80) ∧
    ports (exec (.cfgBonus true) s0) = some (0x01, 0x08) ∧
    ports (exec (.cfgBonus false) { s0 with p2 := 0xFF }) = some (0x01, 0xF7) := by decide

/-- CF14, CF16, CF17 (the values read). -/
theorem test_readers :
    resultOf (exec .livesQ { s0 with p2 := 0x8A }) = some (.number 5) ∧
    resultOf (exec .bonusQ { s0 with p2 := 0x8A }) = some (.number 1000) ∧
    resultOf (exec .livesQ { s0 with p2 := 0x0B }) = some (.number 6) ∧
    resultOf (exec .bonusQ { s0 with p2 := 0x81 }) = some (.number 1500) := by decide

/-! ### The scheduler (vectors T1 to T9 and FV1 to FV7, one step each) -/

/-- FRAME from reset: thresholds 33332 and 49998, first call `Step()`. -/
theorem test_frame_starts :
    after (exec .frame s0) = some (running .toDone .step 0) ∧
    resultOf (exec .frame s0) = some .nothing := by decide

/-- T6 frame 2: a threshold that is met already makes no step. -/
theorem test_frame_tests_first :
    (after (exec .frame { s0 with cyc := 66664, frm := 2 })).map (·.frame) =
      some (some ⟨.toDone, 66664, 83330, .raise .mid⟩) := by decide

/-- T3: equality stops the loop; one cycle below it does not. -/
theorem test_comparator :
    after (step (moves (running .toDone .step 33328) [.stepReturns 4])) =
      some (running .toDone (.raise .mid) 33332) ∧
    after (step (moves (running .toDone .step 33327) [.stepReturns 4])) =
      some (running .toDone .step 33331) := by decide

/-- T5 frame 1: both interrupts back to back. -/
theorem test_zero_pass_second_loop :
    after (step (moves (running .toDone (.raise .mid) 60000) [.raiseReturns])) =
      some (running .toMid (.raise .vblank) 60000) := by decide

/-- The last return: FRM is incremented and FRAME returns Ok. -/
theorem test_frame_ends :
    after (step (moves (running .toMid (.raise .vblank) 50000) [.raiseReturns])) =
      some { s0 with cyc := 50000, frm := 2, result := .ok, constructing := false } := by decide

/-- T9: a step of no cost. -/
theorem test_zero_cost :
    after (step (moves (running .toDone .step 0) [.stepReturns 0])) = some (running .toDone .step 0) := by decide

/-- FV1. -/
theorem test_engine_fault :
    (after (step (moves (running .toDone .step 0) [.engineFaults 9]))).map
        (fun t => (t.status, t.result, t.cyc, t.frm, t.frame)) =
      some (.dead (.ofStep (.engineFault 9)), .err (.ofStep (.engineFault 9)), 0, 1, none) := by decide

/-- FV2, FV6: a router fault inside a step. -/
theorem test_router_fault_in_step :
    (after (step (moves (running .toMid .step 33340) [.op (.memWr 0x0005 0xAA)]))).map
        (fun t => (t.status, t.cyc, t.frm)) =
      some (.dead (.ofStep (.router (.illegalWrite 0x0005 0xAA))), 33340, 1) ∧
    (after (step (moves (running .toDone .step 0) [.op (.memRd 0x4000)]))).map (·.result) =
      some (.err (.ofStep (.router (.unmappedAccess (.read 0x4000))))) := by decide

/-- FV3, FV4: the same inside an interrupt request. -/
theorem test_interrupt_delivery_fault :
    (after (step (moves (running .toDone (.raise .mid) 33340) [.op (.memWr 0xFFFF 0x12)]))).map (·.result) =
      some (.err (.interruptDeliveryFault .mid (.router (.unmappedAccess (.write 0xFFFF 0x12))))) ∧
    (after (step (moves (running .toMid (.raise .vblank) 83330) [.engineFaults 3]))).map (·.result) =
      some (.err (.interruptDeliveryFault .vblank (.engineFault 3))) := by decide

/-- FV5, and every other operation of a dead session. -/
theorem test_dead_session :
    exec .frame dead = .refused .deadSession ∧ exec (.memrdRam 0) dead = .refused .deadSession ∧
    exec .livesQ dead = .refused .deadSession ∧
    step (moves dead [.stepReturns 4]) = .refused .deadSession := ⟨rfl, rfl, rfl, rfl⟩

/-- FV7: a window write and an undecoded port are no faults. -/
theorem test_no_faults_in_step :
    after (step (moves (running .toDone .step 0) [.op (.memWr 0x4000 0x99)])) =
      some { running .toDone .step 0 with result := .ok } ∧
    after (step (moves (running .toDone .step 0) [.op (.ioIn 9)])) =
      some { running .toDone .step 0 with result := .byte 0xFF } := by decide

/-- A return that no call asked for is no move of the engine. -/
theorem test_unsolicited_return :
    step (moves s0 [.stepReturns 4]) = .fault .unsolicitedReturn ∧
    step (moves (running .toDone .step 0) [.raiseReturns]) = .fault .unsolicitedReturn ∧
    step (moves (running .toDone (.raise .mid) 33340) [.stepReturns 4]) = .fault .unsolicitedReturn ∧
    step (moves s0 [.engineFaults 0]) = .fault .unsolicitedReturn := ⟨rfl, rfl, rfl, rfl⟩

/-- R331, R105, R297. -/
theorem test_refusals :
    exec (.evtCoin true) (running .toDone .step 0) = .refused .frameInProgress ∧
    exec .frame (running .toMid .step 40000) = .refused .frameInProgress ∧
    exec (.cfgLives 4) { s0 with constructing := false } = .refused .constructionOver ∧
    step (moves s0 [.op (.memWr 0x2400 0x5A)]) = .refused .noEngineCall ∧
    step (moves s0 [.op (.ioIn 1)]) = .refused .noEngineCall := ⟨rfl, rfl, rfl, rfl, rfl⟩

/-- R330: the host reads the buffer between FRAME commands, after a failed one too, and not during one. -/
theorem test_frame_buffer :
    s0.frameBuffer.isSome ∧ dead.frameBuffer.isSome ∧ (running .toDone .step 0).frameBuffer = none ∧
    (running .toDone .step 0).newSession Params.default [] [] [] [] = none := ⟨rfl, rfl, rfl, rfl⟩

/-- The first instruction after reset, placed by `withFetchWord`. -/
theorem test_fetch_word :
    resultOf (step (State.reset.withFetchWord 16 0x2005)) = some .ok ∧
    resultOf (step (State.reset.withFetchWord 16 0x0005)) = some (.err (.ofStep (.router (.illegalWrite 0x0005 0)))) ∧
    resultOf (step (State.reset.withFetchWord 8 0x06)) = some .nothing := by decide

/-! ### Engines: FRAME with the engine as an argument -/

/-- An engine whose every step costs `c` and which makes no transaction (the stub of vectors T). -/
def constant (c : Nat) : Engine where
  Hidden := Unit
  step _ := .returns (c, ())
  raiseInterrupt _ _ := .returns ()

/-- Small budgets, to run whole frames. -/
def small : State := { s0 with params := { Params.default with halfFrameBudget := 3 } }

/-- A whole FRAME of three and then two steps of cost 2 (budgets 3 and 6). -/
theorem test_frame_by_steps :
    ((constant 2).frame 3 2 () small).map (fun r => (r.2.cyc, r.2.frm, r.2.result)) = some (10, 2, .ok) := by
  decide

/-- An engine that writes to ROM in its step. -/
def romWriter : Engine where
  Hidden := Unit
  step _ := .memWrite 0x2000 0x77 (.memWrite 0x0005 0xAA (.returns (4, ())))
  raiseInterrupt _ _ := .returns ()

/-- R291: the first write of the step stays, the second ends the FRAME. -/
theorem test_no_rollback :
    (romWriter.frame 10 10 () small).map (fun r => (r.2.mem.read 0x2000, r.2.cyc, r.2.frm, r.2.status)) =
      some (0x77, 0, 1, .dead (.ofStep (.router (.illegalWrite 0x0005 0xAA)))) := by decide

/-- T9: no return, however long one looks. -/
theorem test_zero_cost_engine : (constant 0).frame 20 20 () small = none := rfl

/-! ### Witnesses: for every obligation with hypotheses, values that meet all of them together

Where an obligation has several clauses, the vectors above and the clauses here take each at an end of its
range. -/

/-- 2048 and 7168 bytes. -/
abbrev segment (b : Byte) : List Byte := List.replicate 2048 b
abbrev buffer (b : Byte) : List Byte := List.replicate 7168 b

theorem s0_inv : s0.Inv where
  params := by decide
  mem := by decide
  frm := by decide
  counters := by decide
  frame := by simp [s0]
  dead := by simp [s0]
  construction := fun _ => ⟨rfl, rfl⟩
  unmapped := ⟨by decide, by decide⟩

/-- A running FRAME that is where R250 puts it. -/
theorem running_inv (ph : Phase) (cyc : Nat) (h : ph = .toMid → 33332 ≤ cyc) :
    (running ph (nextCall cyc ph 33332 49998) cyc).Inv where
  params := s0_inv.params
  mem := s0_inv.mem
  frm := by simp [running, s0]
  counters := by simp [running, s0]
  frame := fun fr hf => by
    simp only [running, Option.some.injEq] at hf
    subst hf
    exact ⟨(by decide : 33332 = s0.doneThreshold), (by decide : 49998 = s0.midThreshold), rfl, h⟩
  dead := by simp [running, s0]
  construction := by simp [running]
  unmapped := ⟨s0_inv.unmapped.p1, s0_inv.unmapped.p2⟩

theorem witness_ConstructionGivesTheResetTable :
    Params.default.wf ∧ (segment 1).length = 2048 ∧ (segment 2).length = 2048 ∧ (segment 3).length = 2048 ∧
      (segment 4).length = 2048 ∧ (buffer 0xEE).length = 7168 := by
  refine ⟨by decide, ?_, ?_, ?_, ?_, ?_⟩ <;> rw [List.length_replicate]

theorem witness_ConstructionRefusesWrongSizes :
    ¬(([] : List Byte).length = 2048 ∧ (segment 2).length = 2048 ∧ (segment 3).length = 2048 ∧
      (segment 4).length = 2048 ∧ (buffer 0xEE).length = 7168) ∧
    ¬((segment 1).length = 2048 ∧ (segment 2).length = 2048 ∧ (segment 3).length = 2048 ∧
      (segment 4).length = 2048 ∧ (List.replicate 7167 0xEE : List Byte).length = 7168) := by
  refine ⟨fun h => absurd h.1 (by decide), fun h => ?_⟩
  have := h.2.2.2.2
  rw [List.length_replicate] at this
  omega

theorem witness_NewSessionInheritsOnlyTheBuffer :
    (∃ t, s0.newSession Params.default (segment 1) (segment 2) (segment 3) (segment 4) = some t) ∧
    ({ s0 with p1 := 0xFF, cyc := 5 } : State).frame = none ∧
    ∀ i, i < 7168 → ({ s0 with p1 := 0xFF, cyc := 5 } : State).bankByte .videoFrame i =
      s0.bankByte .videoFrame i := by
  refine ⟨⟨State.constructed Params.default (segment 1 ++ segment 2 ++ segment 3 ++ segment 4) s0.vram, ?_⟩,
    rfl, fun _ _ => rfl⟩
  rw [State.newSession, show s0.frameBuffer = some s0.vram from rfl, Option.bind_some, State.construct, if_pos]
  refine ⟨by decide, ?_, ?_, ?_, ?_, ?_⟩ <;>
    simp only [List.length_replicate, romSegmentSize, State.vram, List.length_map, List.length_range]

/-- A live session: BankReadsReturnTheByte, DecodedReadFollowsTheAddressMap, BankWritesStoreTheByte,
WindowWriteIsIgnored, DecodedWriteFollowsTheAddressMap, PushShiftsTheByteIn, SetOffsetKeepsThreeBits,
ShiftReadReturnsTheWindow, PortInputsReturnTheirByte, DecodedInputFollowsThePortId,
DiscardedOutputsChangeNothing. -/
theorem witness_live : s0.status = .live ∧ (running .toDone .step 0).status = .live := by decide

/-- A live session with no FRAME in progress: MirrorReadsFault, RomWriteFaults, MirrorWritesFault,
EventWritesItsBit, DerivedReadersDecodeTheFields, FrameComputesItsThresholds. -/
theorem witness_idle : s0.status = .live ∧ s0.frame = none := by decide

/-- The same with admissible parameters: CoinClearsBitZeroWhenPressed, EventLaws; and with the default event
map: DefaultEventBits; live alone: DecodedOutputFollowsThePortId. -/
theorem witness_idle_wf :
    s0.status = .live ∧ s0.frame = none ∧ s0.params.wf ∧ s0.params.eventMap = EventMap.default ∧
      Event.coin ≠ Event.tilt := by decide

/-- Every range of R140's comparison at both of its ends, and of R141's. -/
theorem witness_address_ranges :
    (0x0000#16).toNat < 0x2000 ∧ (0x1FFF#16).toNat < 0x2000 ∧ ¬(0x2000#16).toNat < 0x2000 ∧
    (0x23FF#16).toNat < 0x2400 ∧ ¬(0x2400#16).toNat < 0x2400 ∧ (0x3FFF#16).toNat < 0x4000 ∧
    ¬(0x4000#16).toNat < 0x4000 ∧ (0x4000 ≤ (0x41FF#16).toNat ∧ (0x41FF#16).toNat < 0x4200) ∧
    ¬(0x4200#16).toNat < 0x4200 := by decide

theorem witness_StoresChangeOneByte :
    s0.mem.wf ∧ (∃ t, exec (.memwrRam 0 0x5A) s0 = .next t) ∧ (∃ t, exec (.memwrVramA 0x3FF 0x5A) s0 = .next t) ∧
      (∃ t, exec (.memwrVramB 0 0x5A) s0 = .next t) ∧ ∃ t, exec (.memwrVramC 0xFFF 0x5A) s0 = .next t :=
  ⟨by decide, ⟨_, rfl⟩, ⟨_, rfl⟩, ⟨_, rfl⟩, ⟨_, rfl⟩⟩

theorem witness_ReadAfterWrite :
    s0.mem.wf ∧
      (decode s0.params (.memWr 0x2000 0x5A) = .ok (.memwrRam 0 0x5A) ∧
        ∃ t, exec (.memwrRam 0 0x5A) s0 = .next t) ∧
      (decode s0.params (.memWr 0x3FFF 0x5A) = .ok (.memwrVramC 0xFFF 0x5A) ∧
        ∃ t, exec (.memwrVramC 0xFFF 0x5A) s0 = .next t) ∧
      (decode s0.params (.memWr 0x1FFF 0x5A) = .ok (.memwrRom 0x1FFF 0x5A) ∧
        ∃ t, exec (.memwrRom 0x1FFF 0x5A) s0 = .next t) ∧
      decode s0.params (.memWr 0x4000 0x5A) = .ok (.memwrWindow 0 0x5A) ∧
        ∃ t, exec (.memwrWindow 0 0x5A) s0 = .next t :=
  ⟨by decide, ⟨by decide, _, rfl⟩, ⟨by decide, _, rfl⟩, ⟨by decide, _, rfl⟩, by decide, _, rfl⟩

theorem witness_OnlyAStoreChangesMemory :
    ∃ t, step (moves (running .toDone .step 0) [.op (.memWr 0x2000 0x5A)]) = .next t ∧ (moves s0 []).mem.wf ∧
      t.mem.read 0x2000 ≠ s0.mem.read 0x2000 := ⟨_, rfl, by decide, by decide⟩

theorem witness_RomNeverChanges :
    ∃ t, 8191 < 8192 ∧ step (moves (running .toDone .step 0) [.op (.memWr 0x1FFF 0x5A)]) = .next t := ⟨_, by decide, rfl⟩

theorem witness_TwoPushesDetermineTheShiftRead :
    ∃ s1 s2 s3 t, exec (.outShiftOffset 9) s0 = .next s1 ∧ exec (.outShiftData 0xAB) s1 = .next s2 ∧
      exec (.outShiftData 0xCD) s2 = .next s3 ∧ exec .inShift s3 = .next t := ⟨_, _, _, _, rfl, rfl, rfl, rfl⟩

/-- A step of an instruction that is no shift-port output, and a step that is no operation. -/
theorem witness_ShiftRegisterChangesOnlyByItsPorts :
    (∃ t, exec (.outSoundA 1) s0 = .next t) ∧ (∀ b, Instr.outSoundA 1 ≠ .outShiftData b ∧ Instr.outSoundA 1 ≠ .srPush b) ∧
    (∀ b, Instr.outSoundA 1 ≠ .outShiftOffset b ∧ Instr.outSoundA 1 ≠ .srSetOffset b) ∧
    (∃ t, step (moves (running .toDone .step 0) [.stepReturns 4]) = .next t) ∧
    ∀ r rest, (moves (running .toDone .step 0) [.stepReturns 4]).inputs ≠ .op r :: rest :=
  ⟨⟨_, rfl⟩, by simp, by simp, ⟨_, rfl⟩, by simp [moves]⟩

/-- The three kinds of output port. -/
theorem witness_DecodedOutputFollowsThePortId :
    s0.status = .live ∧ s0.params.wf ∧ (2 : PortId) = s0.params.outShiftOffset ∧
      (4 : PortId) = s0.params.outShiftData ∧ (3 : PortId) ≠ s0.params.outShiftOffset ∧
      (3 : PortId) ≠ s0.params.outShiftData := by decide

theorem witness_OnlyEventsAndStrapsWriteThePorts :
    (∃ t, exec (.outSoundA 1) s0 = .next t) ∧ (∀ e x, Instr.outSoundA 1 ≠ decodeEvent x e) ∧
      (∀ n, Instr.outSoundA 1 ≠ .cfgLives n) ∧ (∀ b, Instr.outSoundA 1 ≠ .cfgCoininfo b) ∧
      (∀ b, Instr.outSoundA 1 ≠ .cfgBonus b) ∧
      (∃ t, step (moves (running .toDone .step 0) [.stepReturns 4]) = .next t) ∧
      ∀ r rest, (moves (running .toDone .step 0) [.stepReturns 4]).inputs ≠ .op r :: rest :=
  ⟨⟨_, rfl⟩, by intro e; cases e <;> simp [decodeEvent], by simp, by simp, by simp, ⟨_, rfl⟩, by simp [moves]⟩

theorem witness_InputsAreStillDuringAFrame :
    ∃ t, (running .toDone .step 0).Inv ∧
      (running .toDone .step 0).frame = some ⟨.toDone, 33332, 49998, .step⟩ ∧
      step (running .toDone .step 0) = .next t := ⟨_, running_inv .toDone 0 (by simp), rfl, rfl⟩

theorem witness_StrapsWriteTheirField : s0.status = .live ∧ s0.constructing = true ∧ s0.params.wf := by decide

theorem witness_ReadersInvertTheStraps :
    ∃ s1 s2, s0.frame = none ∧ s0.params.wf ∧ exec (.cfgLives 7) s0 = .next s1 ∧
      exec (.cfgBonus true) s1 = .next s2 := ⟨_, _, rfl, by decide, rfl, rfl⟩

/-- All the straps the laws speak of, at the ends of the argument of CFG.LIVES. -/
theorem witness_StrapLaws :
    s0.params.wf ∧ (∃ t, exec (.cfgLives 0) s0 = .next t) ∧ (∃ t, exec (.cfgLives 1000) s0 = .next t) ∧
      (∃ t, exec (.cfgCoininfo false) s0 = .next t) ∧ ∃ t, exec (.cfgBonus true) s0 = .next t :=
  ⟨by decide, ⟨_, rfl⟩, ⟨_, rfl⟩, ⟨_, rfl⟩, ⟨_, rfl⟩⟩

theorem witness_StrapsApplyOnlyDuringConstruction :
    ({ s0 with constructing := false } : State).status = .live ∧
      ({ s0 with constructing := false } : State).constructing = false ∧ (∃ t, exec .inP1 s0 = .next t) ∧
      (∀ n, Instr.inP1 ≠ .cfgLives n) ∧ (∀ b, Instr.inP1 ≠ .cfgCoininfo b) ∧ ∀ b, Instr.inP1 ≠ .cfgBonus b :=
  ⟨rfl, rfl, ⟨_, rfl⟩, by simp, by simp, by simp⟩

theorem witness_ConfigurationIsFixedAfterConstruction :
    ∃ t, (running .toDone .step 0).params.wf ∧ (running .toDone .step 0).constructing = false ∧
      step (moves (running .toDone .step 0) [.stepReturns 4]) = .next t := ⟨_, by decide, rfl, rfl⟩

/-- Both phases, each with its threshold met and not met. -/
theorem witness_StepReturnCountsAndCompares :
    (moves (running .toDone .step 33328) [.stepReturns 4]).status = .live ∧
      (moves (running .toDone .step 33328) [.stepReturns 4]).frame = some ⟨.toDone, 33332, 49998, .step⟩ ∧
      (moves (running .toMid .step 49997) [.stepReturns 0]).frame = some ⟨.toMid, 33332, 49998, .step⟩ ∧
      (moves (running .toMid .step 49997) [.stepReturns 0]).inputs = .stepReturns 0 :: [] := by decide

theorem witness_InterruptReturnMovesTheFrameOn :
    (moves (running .toDone (.raise .mid) 33332) [.raiseReturns]).status = .live ∧
      (moves (running .toDone (.raise .mid) 33332) [.raiseReturns]).frame =
        some ⟨.toDone, 33332, 49998, .raise .mid⟩ ∧
      (moves (running .toMid (.raise .vblank) 49998) [.raiseReturns]).frame =
        some ⟨.toMid, 33332, 49998, .raise .vblank⟩ ∧
      (moves (running .toMid (.raise .vblank) 49998) [.raiseReturns]).inputs = .raiseReturns :: [] := by decide

/-- In a step and in a request: EngineFaultEndsTheFrame, RouterFaultEndsTheFrame. -/
theorem witness_EngineFaultEndsTheFrame :
    (moves (running .toDone .step 0) [.engineFaults 9]).status = .live ∧
      (moves (running .toDone .step 0) [.engineFaults 9]).frame = some ⟨.toDone, 33332, 49998, .step⟩ ∧
      (moves (running .toDone .step 0) [.engineFaults 9]).inputs = .engineFaults 9 :: [] ∧
      (running .toDone (.raise .mid) 33332).frame = some ⟨.toDone, 33332, 49998, .raise .mid⟩ := by decide

theorem witness_RouterFaultEndsTheFrame :
    (running .toDone .step 0).status = .live ∧
      (running .toDone .step 0).frame = some ⟨.toDone, 33332, 49998, .step⟩ ∧
      (∃ a : BitVec 14, Instr.memrdMirrorA 0x3FFF = .memrdMirrorA a ∧
        RouterFault.unmappedAccess (.read 0x7FFF) =
          .unmappedAccess (.read (BitVec.ofNat 16 (0x4000 + a.toNat)))) ∧
      ∃ a : BitVec 13, Instr.memwrRom 0x1FFF 0x5A = .memwrRom a 0x5A ∧
        RouterFault.illegalWrite 0x1FFF 0x5A = .illegalWrite (BitVec.ofNat 16 a.toNat) 0x5A :=
  ⟨rfl, rfl, ⟨_, rfl, by decide⟩, _, rfl, by decide⟩

theorem witness_CyclesGrowOnlyByStepReturns :
    ∃ t, step (moves (running .toDone .step 0) [.stepReturns 4]) = .next t ∧ t.cyc = 4 := ⟨_, rfl, rfl⟩

theorem witness_FrameCounterCountsCompletedFrames :
    ∃ t, step (moves (running .toMid (.raise .vblank) 49998) [.raiseReturns]) = .next t ∧ t.frm ≠ 1 :=
  ⟨_, rfl, by decide⟩

/-- A FRAME that raises Mid, one that raises VBlank and returns, one that begins its second phase. -/
theorem witness_InterruptsAreRaisedInOrder :
    (running .toDone (.raise .mid) 33332).Inv ∧ (running .toMid (.raise .vblank) 49998).Inv ∧
      (∃ t, step (moves (running .toDone (.raise .mid) 33332) [.raiseReturns]) = .next t ∧
        t.frame = some ⟨.toMid, 33332, 49998, .step⟩) ∧
      ∃ t, step (moves (running .toMid (.raise .vblank) 49998) [.raiseReturns]) = .next t ∧ t.frame = none ∧
        t.status = .live :=
  ⟨running_inv .toDone 33332 (by simp), running_inv .toMid 49998 (by simp), ⟨_, rfl, rfl⟩, _, rfl, rfl, rfl⟩

theorem witness_DeadSessionRefusesEverything :
    dead.status = .dead (.ofStep (.engineFault 7)) ∧ (moves dead [.stepReturns 4]).inputs ≠ [] ∧
      step dead = .next dead := ⟨rfl, by decide, rfl⟩

theorem witness_HostWaitsForTheFrame :
    (running .toDone .step 0).status = .live ∧ (running .toDone .step 0).Inv ∧
      (running .toDone .step 0).frame = some ⟨.toDone, 33332, 49998, .step⟩ :=
  ⟨rfl, running_inv .toDone 0 (by simp), rfl⟩

/-- Between FRAME commands and inside one: FrameBufferViewsTheVideoBank. -/
theorem witness_FrameBufferViewsTheVideoBank :
    s0.frame = none ∧ dead.frame = none ∧
      (running .toDone .step 0).frame = some ⟨.toDone, 33332, 49998, .step⟩ := by decide

/-- An engine whose FRAME returns, and one whose FRAME returns a fatal error. -/
theorem witness_MachineRunsEveryEngine :
    small.status = .live ∧ small.frame = none ∧ (∃ r, (constant 2).frame 3 2 () small = some r) ∧
      ∃ r, romWriter.frame 10 10 () small = some r := ⟨rfl, rfl, ⟨_, rfl⟩, _, rfl⟩

theorem witness_ZeroCostEngineNeverReturns :
    s0.status = .live ∧ s0.frame = none ∧ (∀ (h : Unit) u, ∃ h' v, ((constant 0).step h).serve u = (.ok (0, h'), v)) ∧ s0.cyc < s0.doneThreshold :=
  ⟨rfl, rfl, fun _ u => ⟨(), u, rfl⟩, by decide⟩

/-- PositiveCostFrameReturns (both clauses) and ThousandFramesReturnOk. -/
theorem witness_positive_engine :
    ({ s0 with cyc := 49998, frm := 2 } : State).status = .live ∧
      ({ s0 with cyc := 49998, frm := 2 } : State).frame = none ∧ (∀ (h : Unit) u, ∃ c h' v, ((constant 4).step h).serve u = (.ok (c + 1, h'), v)) ∧
      (∀ k (h : Unit) u, ∃ h' v, ((constant 4).raiseInterrupt k h).serve u = (.ok h', v)) ∧
      ({ s0 with cyc := 49998, frm := 2 } : State).doneThreshold ≤ 49998 + s0.params.halfFrameBudget ∧
      0 < 1000 := ⟨rfl, rfl, fun _ u => ⟨3, (), u, rfl⟩, fun _ _ u => ⟨(), u, rfl⟩, by decide, by decide⟩

theorem witness_DecodeOfEncode :
    Params.default.wf ∧ (Instr.outUnknownB 7 0x5A).wf Params.default = true ∧
      encode Params.default (.outUnknownB 7 0x5A) = some (.ioOut 7 0x5A) ∧
      (Instr.memrdRom 0x1FFF).wf Params.default = true ∧
      encode Params.default (.memrdRom 0x1FFF) = some (.memRd 0x1FFF) := by decide

/-- A host's request; a transaction in a call and without one; no move. -/
theorem witness_StepRunsTheDecodedInstruction :
    (moves s0 [.op (.cmd .frame)]).status = .live ∧
      (moves s0 [.op (.cmd .frame)]).inputs = .op (.cmd .frame) :: [] ∧
      decode s0.params (.cmd .frame) = .ok .frame ∧ isTransaction (.cmd .frame) = false ∧
      (moves (running .toDone .step 0) [.op (.ioIn 3), .stepReturns 4]).inputs = .op (.ioIn 3) :: [.stepReturns 4] ∧
      decode s0.params (.ioIn 3) = .ok .inShift ∧ isTransaction (.ioIn 3) = true ∧
      (running .toDone .step 0).frame ≠ none ∧ s0.frame = none ∧ s0.inputs = [] := by decide

theorem witness_FetchedWordRunsNext :
    s0.params = Params.default ∧ s0.status = .live ∧ decodeTableWord 16 0x2005 = some (.memwrRam 5 0) ∧
      decodeTableWord 8 0x06 = some (.outWatchdog 0) ∧ s0.frame = none ∧
      (running .toDone .step 0).frame ≠ none := by decide

theorem witness_EveryStepKeepsTheInvariant :
    ∃ t, s0.Inv ∧ step s0 = .next t := ⟨_, s0_inv, rfl⟩

theorem witness_ConstructionMeetsTheInvariant :
    ∃ s, State.construct Params.default (segment 1) (segment 2) (segment 3) (segment 4) (buffer 0xEE) = some s := by
  refine ⟨_, if_pos ⟨by decide, ?_, ?_, ?_, ?_, ?_⟩⟩ <;> rw [List.length_replicate] <;> rfl

end Sys2Proof.Tests
end

section
/-!
PROOFS. The state: construction (R40, R320) and what every step keeps (R39).

`Effect` and `Move` (Laws/Exec.lean) list what an instruction and a step can do. Each field of the invariant
has its lemma about them here; the invariant's step lemma and the frame statements are assembled from these.
-/

namespace Sys2Proof.Machine

/-! ### Construction -/

/-- Construction answers exactly for admissible parameters and arguments of the right sizes (R322). -/
theorem State.construct_eq_some_iff {p : Params} {seg0 seg1 seg2 seg3 vram : List Byte} {s : State} :
    State.construct p seg0 seg1 seg2 seg3 vram = some s ↔
      (p.wf ∧ seg0.length = 2048 ∧ seg1.length = 2048 ∧ seg2.length = 2048 ∧ seg3.length = 2048 ∧
        vram.length = 7168) ∧ State.constructed p (seg0 ++ seg1 ++ seg2 ++ seg3) vram = s := by
  unfold State.construct
  split
  · exact ⟨fun h => ⟨‹_›, Option.some.inj h⟩, fun h => congrArg some h.2⟩
  · exact ⟨(nomatch ·), fun h => absurd h.1 ‹_›⟩

/-- A byte of a segment, found in the image that the segments make (R21). -/
theorem getElem?_segment (pre seg post : List Byte) {i : Nat} (hi : i < seg.length) :
    (pre ++ seg ++ post)[pre.length + i]? = seg[i]? := by
  rw [List.append_assoc, List.getElem?_append_right (Nat.le_add_right _ _), Nat.add_sub_cancel_left,
    List.getElem?_append_left hi]

/-- Element `i` of the ROM bank is byte `i` of the image (R21). -/
theorem constructed_rom_getElem? {p : Params} {rom vram : List Byte} (hr : rom.length = 8192) {i : Nat}
    (hi : i < 8192) : rom[i]? = some ((State.constructed p rom vram).bankByte .rom i) := by
  rw [constructed_rom hr hi, List.getElem?_eq_getElem]

/-- Element `i` of the video bank is byte `i` of the host's buffer (R23). -/
theorem constructed_vram_getElem? {p : Params} {rom vram : List Byte} (hr : rom.length = 8192)
    (hv : vram.length = 7168) {i : Nat} (hi : i < 7168) :
    vram[i]? = some ((State.constructed p rom vram).bankByte .videoFrame i) := by
  rw [constructed_vram hr hv hi, List.getElem?_eq_getElem]

/-- A constructed session meets the invariant. -/
theorem constructed_inv {p : Params} {rom vram : List Byte} (hp : p.wf) (hr : rom.length = 8192)
    (hv : vram.length = 7168) : (State.constructed p rom vram).Inv where
  params := hp
  mem := constructed_mem_wf hr hv
  frm := Nat.le_refl 1
  counters := fun h => absurd h (by simp [State.constructed])
  frame := fun _ h => nomatch h
  dead := fun _ => rfl
  construction := fun _ => ⟨rfl, rfl⟩
  unmapped := ⟨fun _ _ => rfl, fun _ _ _ => rfl⟩

/-! ### Bits of the port bytes that no event writes -/

/-- No event has a configuration bit (R10, R28). -/
theorem Params.configBit_not_event {p : Params} (hp : p.wf) {i : Fin 8} (hi : i ∈ p.configBits) :
    (⟨.port2, i⟩ : PortBit) ∉ Event.all.map p.eventMap.get := by
  obtain ⟨-, -, -, -, -, -, -, -, -, -, -, -, hconfig, -⟩ := hp
  exact hconfig i hi

theorem Event.mem_all (e : Event) : e ∈ Event.all := by
  cases e <;> decide

/-- An event of a port writes another bit than one that is no event's. -/
theorem EventMap.bit_ne_of_unmapped {m : EventMap} {e : Event} {i : Fin 8}
    (h : (⟨(m.get e).port, i⟩ : PortBit) ∉ Event.all.map m.get) : (m.get e).bit ≠ i := by
  rintro rfl
  exact h (List.mem_map_of_mem (Event.mem_all e))

theorem State.readBit_applyEvent_p1 {s : State} {i : Fin 8}
    (h : (⟨.port1, i⟩ : PortBit) ∉ Event.all.map s.params.eventMap.get) (e : Event) (pressed : Bool) :
    readBit (s.applyEvent e pressed).p1 i = readBit s.p1 i := by
  rw [State.applyEvent_p1]
  split
  · rename_i hport
    rw [readBit_writeBit, if_neg (EventMap.bit_ne_of_unmapped (hport ▸ h))]
  · rfl

theorem State.readBit_applyEvent_p2 {s : State} {i : Fin 8}
    (h : (⟨.port2, i⟩ : PortBit) ∉ Event.all.map s.params.eventMap.get) (e : Event) (pressed : Bool) :
    readBit (s.applyEvent e pressed).p2 i = readBit s.p2 i := by
  rw [State.applyEvent_p2]
  split
  · rename_i hport
    rw [readBit_writeBit, if_neg (EventMap.bit_ne_of_unmapped (hport ▸ h))]
  · rfl

/-! ### What an instruction keeps -/

namespace Effect

variable {s t : State}

theorem params_eq (h : Effect s t) : t.params = s.params := by
  cases h <;> simp

theorem cyc_eq (h : Effect s t) : t.cyc = s.cyc := by
  cases h <;> simp

theorem frm_eq (h : Effect s t) : t.frm = s.frm := by
  cases h <;> simp

/-- Memory is kept or one byte of it is written, at an address of RAM or VRAM (R61). -/
theorem mem_cases (h : Effect s t) :
    t.mem = s.mem ∨ ∃ a v, 0x2000 ≤ a ∧ a < storageEnd ∧ t.mem = s.mem.write a v := by
  cases h with
  | stored b i v hb hi =>
    refine .inr ⟨b.base + i, v, ?_, ?_, rfl⟩ <;> rcases hb with rfl | rfl <;>
      simp only [Bank.base, Bank.size, storageEnd] at * <;> omega
  | _ => simp

theorem readBit_p1 {i : Fin 8} (hi : (⟨.port1, i⟩ : PortBit) ∉ Event.all.map s.params.eventMap.get)
    (h : Effect s t) : readBit t.p1 i = readBit s.p1 i := by
  cases h with
  | evented e pressed => exact State.readBit_applyEvent_p1 hi e pressed
  | _ => simp

/-- A bit of P2 that is no event's is kept, a configuration bit once construction is over (R28, R236). -/
theorem readBit_p2 {i : Fin 8} (hi : (⟨.port2, i⟩ : PortBit) ∉ Event.all.map s.params.eventMap.get)
    (hc : s.constructing = false ∨ i ∉ s.params.configBits) (h : Effect s t) :
    readBit t.p2 i = readBit s.p2 i := by
  cases h with
  | evented e pressed => exact State.readBit_applyEvent_p2 hi e pressed
  | strapped b hs hb => exact hb i (hc.resolve_left (by simp [hs]))
  | _ => simp

/-- Only a strap leaves a session under construction (R235). -/
theorem constructing_kept (h : Effect s t) (hc : t.constructing = true) :
    s.constructing = true ∧ t.frame = s.frame ∧ t.status = s.status := by
  cases h with
  | strapped b hs hb => exact ⟨hs, rfl, rfl⟩
  | _ => simp at hc

/-- A FRAME ends, begins or goes on; a live session is dead only with its FRAME ended (R250, R290). -/
theorem frame_cases (h : Effect s t) :
    t.frame = none ∨ t = s.beginFrame ∨ t.frame = s.frame ∧ t.status = s.status := by
  cases h with
  | faulted f => exact .inl (State.routerFault_frame s f)
  | began => exact .inr (.inl rfl)
  | _ => simp

end Effect

/-! ### What a step keeps -/

/-- Where R250 puts a FRAME depends on the parameters and the counters alone. -/
theorem FrameRun.Consistent.of_same {s t : State} {fr : FrameRun} (h : fr.Consistent s)
    (hp : t.params = s.params) (hf : t.frm = s.frm) (hc : t.cyc = s.cyc) : fr.Consistent t where
  done := h.done.trans (State.doneThreshold_of s t hp hf).symm
  mid := h.mid.trans (State.midThreshold_of s t hp hf).symm
  call := by rw [hc]; exact h.call
  doneMet := by rw [hc]; exact h.doneMet

/-- A FRAME that waits at its own thresholds is where R250 puts it. -/
theorem State.await_consistent {s : State} {ph : Phase} {done mid : Nat} (hd : done = s.doneThreshold)
    (hm : mid = s.midThreshold) (hp : ph = .toMid → done ≤ s.cyc) :
    ∀ fr, (s.await ph done mid).frame = some fr → fr.Consistent (s.await ph done mid) := by
  rintro _ ⟨⟩
  exact ⟨hd, hm, rfl, hp⟩

namespace Move

variable {s t : State}

theorem params_eq (h : Move s t) : t.params = s.params := by
  cases h with
  | executed _ _ _ _ _ _ he => exact (exec_next he).2.params_eq
  | _ => rfl

/-- CYC is kept or counts the cycles of a returned step (R30). -/
theorem cyc_cases (h : Move s t) :
    t.cyc = s.cyc ∨ ∃ c rest, s.inputs = .stepReturns c :: rest ∧ t.cyc = s.cyc + c := by
  cases h with
  | executed _ _ _ _ _ _ he => exact .inl (exec_next he).2.cyc_eq
  | stepReturned c rest _ _ _ hin => exact .inr ⟨c, rest, hin, rfl⟩
  | _ => exact .inl rfl

theorem cyc_le (h : Move s t) : s.cyc ≤ t.cyc := by
  rcases h.cyc_cases with h | ⟨c, _, -, h⟩ <;> omega

/-- FRM is kept, or the VBlank of a FRAME was delivered, which ends the FRAME (R31). -/
theorem frm_cases (h : Move s t) :
    t.frm = s.frm ∨ t = s.dropInput.finishFrame ∧ (∃ rest, s.inputs = .raiseReturns :: rest) ∧
      ∃ fr, s.frame = some fr ∧ fr.call = .raise .vblank := by
  cases h with
  | executed _ _ _ _ _ _ he => exact .inl (exec_next he).2.frm_eq
  | vblankReturned rest _ _ _ hin hf => exact .inr ⟨rfl, ⟨rest, hin⟩, _, hf, rfl⟩
  | _ => exact .inl rfl

/-- Memory is kept or one byte of it is written, at an address of RAM or VRAM (R61). -/
theorem mem_cases (h : Move s t) :
    t.mem = s.mem ∨ ∃ a v, 0x2000 ≤ a ∧ a < storageEnd ∧ t.mem = s.mem.write a v := by
  cases h with
  | executed _ _ _ _ _ _ he => exact (exec_next he).2.mem_cases
  | _ => exact .inl rfl

theorem mem_wf (h : Move s t) (hm : s.mem.wf) : t.mem.wf := by
  rcases h.mem_cases with h | ⟨a, v, -, ha, h⟩ <;> rw [h]
  · exact hm
  · exact Memory.wf_write hm ha v

theorem bankByte_rom (h : Move s t) {i : Nat} (hi : i < 8192) : t.bankByte .rom i = s.bankByte .rom i := by
  unfold State.bankByte
  rcases h.mem_cases with h | ⟨a, v, ha, -, h⟩ <;> rw [h]
  refine Memory.read_write_other _ ?_ v
  simp only [Bank.base]
  omega

theorem readBit_p1 {i : Fin 8} (hi : (⟨.port1, i⟩ : PortBit) ∉ Event.all.map s.params.eventMap.get)
    (h : Move s t) : readBit t.p1 i = readBit s.p1 i := by
  cases h with
  | executed _ _ _ _ _ _ he => exact Effect.readBit_p1 (s := s.dropInput) hi (exec_next he).2
  | _ => rfl

theorem readBit_p2 {i : Fin 8} (hi : (⟨.port2, i⟩ : PortBit) ∉ Event.all.map s.params.eventMap.get)
    (hc : s.constructing = false ∨ i ∉ s.params.configBits) (h : Move s t) :
    readBit t.p2 i = readBit s.p2 i := by
  cases h with
  | executed _ _ _ _ _ _ he => exact Effect.readBit_p2 (s := s.dropInput) hi hc (exec_next he).2
  | _ => rfl

theorem unmappedBitsKept (h : Move s t) (hu : s.UnmappedBitsKept) : t.UnmappedBitsKept := by
  constructor <;> rw [h.params_eq]
  · exact fun i hi => (h.readBit_p1 hi).trans (hu.p1 i hi)
  · exact fun i hc hi => (h.readBit_p2 hi (.inr hc)).trans (hu.p2 i hc hi)

/-- Construction does not begin again (R105). -/
theorem constructing_kept (h : Move s t) (hc : t.constructing = true) : s.constructing = true := by
  cases h with
  | executed _ _ _ _ _ _ he => exact ((exec_next he).2.constructing_kept hc).1
  | vblankReturned | engineFaulted => nomatch hc
  | _ => exact hc

end Move

/-! ### The invariant -/

namespace State.Inv

variable {s : State} {fr : FrameRun}

theorem live_of_running (hi : s.Inv) (hf : s.frame = some fr) : s.status = .live := by
  by_contra h
  simp [hi.dead h] at hf

theorem not_constructing_of_running (hi : s.Inv) (hf : s.frame = some fr) : s.constructing ≠ true := by
  intro h
  simp [(hi.construction h).1] at hf

/-- Mid is raised with the first threshold met (R243). -/
theorem doneThreshold_le (hi : s.Inv) (hf : s.frame = some fr) (hc : fr.call = .raise .mid) :
    s.doneThreshold ≤ s.cyc := by
  have h := hi.frame fr hf
  exact h.done ▸ (nextCall_eq_mid (h.call.symm.trans hc)).2

/-- VBlank is raised with the second threshold met (R243). -/
theorem midThreshold_le (hi : s.Inv) (hf : s.frame = some fr) (hc : fr.call = .raise .vblank) :
    s.midThreshold ≤ s.cyc := by
  have h := hi.frame fr hf
  exact h.mid ▸ (nextCall_eq_vblank (h.call.symm.trans hc)).2

end State.Inv

namespace Move

variable {s t : State}

theorem frm_pos (h : Move s t) (hi : s.Inv) : 1 ≤ t.frm := by
  rcases h.frm_cases with h | ⟨rfl, -, -⟩
  · exact h ▸ hi.frm
  · exact Nat.le_add_left 1 s.frm

/-- CYC stays at or past the `mid` of the last completed frame (R39 item 7). -/
theorem counters (h : Move s t) (hi : s.Inv) (h2 : 2 ≤ t.frm) :
    (t.frm - 1) * t.params.fullFrameBudget + t.params.halfFrameBudget ≤ t.cyc := by
  rcases h.frm_cases with hfrm | ⟨rfl, -, fr, hf, hc⟩
  · rw [hfrm] at h2 ⊢
    rw [h.params_eq]
    exact (hi.counters h2).trans h.cyc_le
  · exact hi.midThreshold_le hf hc

/-- A FRAME stays where R250 puts it. -/
theorem frame_consistent (h : Move s t) (hi : s.Inv) : ∀ fr, t.frame = some fr → fr.Consistent t := by
  cases h with
  | idle => exact hi.frame
  | executed r rest i t hin hd he hc =>
    have h := (exec_next he).2
    rcases h.frame_cases with hn | rfl | ⟨hsame, -⟩
    · simp [hn]
    · exact State.await_consistent rfl rfl (nomatch ·)
    · intro fr hf
      exact (hi.frame fr (hsame.symm.trans hf)).of_same h.params_eq h.frm_eq h.cyc_eq
  | stepReturned cycles rest ph done mid hin hf =>
    have h := hi.frame _ hf
    exact State.await_consistent h.done h.mid fun hp => (h.doneMet hp).trans (Nat.le_add_right _ _)
  | midReturned rest ph done mid hin hf =>
    have h := hi.frame _ hf
    exact State.await_consistent h.done h.mid fun _ => h.done.le.trans (hi.doneThreshold_le hf rfl)
  | vblankReturned | engineFaulted => exact fun _ hf => nomatch hf

/-- A fatal error ends the FRAME (R250). -/
theorem frame_of_dead (h : Move s t) (hi : s.Inv) (hd : t.status ≠ .live) : t.frame = none := by
  cases h with
  | idle => exact hi.dead hd
  | executed r rest i t hin hdec he hc =>
    obtain ⟨hl, h⟩ := exec_next he
    rcases h.frame_cases with hn | rfl | ⟨-, hsame⟩
    · exact hn
    · exact absurd hl hd
    · exact absurd (hsame.trans hl) hd
  | stepReturned _ _ _ _ _ _ hf | midReturned _ _ _ _ _ hf => exact absurd (hi.live_of_running hf) hd
  | vblankReturned | engineFaulted => rfl

/-- A session under construction is live and idle (R105). -/
theorem construction (h : Move s t) (hi : s.Inv) (hc : t.constructing = true) :
    t.frame = none ∧ t.status = .live := by
  have hs := hi.construction (h.constructing_kept hc)
  cases h with
  | idle => exact hs
  | executed r rest i t hin hdec he hcall =>
    obtain ⟨-, hf, hst⟩ := (exec_next he).2.constructing_kept hc
    exact ⟨hf.trans hs.1, hst.trans hs.2⟩
  | stepReturned _ _ _ _ _ _ hf | midReturned _ _ _ _ _ hf =>
    exact absurd hc (hi.not_constructing_of_running hf)
  | vblankReturned | engineFaulted => nomatch hc

theorem keeps_inv (h : Move s t) (hi : s.Inv) : t.Inv where
  params := h.params_eq ▸ hi.params
  mem := h.mem_wf hi.mem
  frm := h.frm_pos hi
  counters := h.counters hi
  frame := h.frame_consistent hi
  dead := h.frame_of_dead hi
  construction := h.construction hi
  unmapped := h.unmappedBitsKept hi.unmapped

end Move

/-! ### The obligations -/

/-- Settles O59: each field of the invariant is kept by every `Move`. -/
theorem everyStepKeepsTheInvariant : Obligations.EveryStepKeepsTheInvariant :=
  fun _ _ hi h => (step_next h).2.keeps_inv hi

/-- Settles O1: the segments stand in the image one after another, and the rest is read off
`State.constructed`. -/
theorem constructionGivesTheResetTable : Obligations.ConstructionGivesTheResetTable := by
  intro p seg0 seg1 seg2 seg3 vram hp h0 h1 h2 h3 hv
  have hr : (seg0 ++ seg1 ++ seg2 ++ seg3).length = 8192 := by simp [h0, h1, h2, h3]
  refine ⟨_, State.construct_eq_some_iff.2 ⟨⟨hp, h0, h1, h2, h3, hv⟩, rfl⟩, ?_, ?_, ?_, ?_,
    fun i hi => constructed_ram hr hi, fun i hi => constructed_vram_getElem? hr hv hi,
    rfl, rfl, rfl, rfl, rfl, rfl, rfl, rfl, rfl, constructed_mem_wf hr hv⟩
  all_goals
    intro i hi
    rw [← constructed_rom_getElem? hr (by omega)]
  · simpa using (getElem?_segment [] seg0 (seg1 ++ seg2 ++ seg3) (h0 ▸ hi)).symm
  · simpa [h0] using (getElem?_segment seg0 seg1 (seg2 ++ seg3) (h1 ▸ hi)).symm
  · simpa [h0, h1] using (getElem?_segment (seg0 ++ seg1) seg2 seg3 (h2 ▸ hi)).symm
  · simpa [h0, h1, h2] using (getElem?_segment (seg0 ++ seg1 ++ seg2) seg3 [] (h3 ▸ hi)).symm

/-- Settles O17: a store writes at an address of RAM or VRAM. -/
theorem romNeverChanges : Obligations.RomNeverChanges :=
  fun _ _ _ hi h => (step_next h).2.bankByte_rom hi

/-- Settles O38: no event has a configuration bit, and a strap needs a session under construction. -/
theorem configurationIsFixedAfterConstruction : Obligations.ConfigurationIsFixedAfterConstruction := by
  intro s t hp hc h
  obtain ⟨-, h⟩ := step_next h
  refine ⟨?_, h.params_eq, fun i hi => h.readBit_p2 (Params.configBit_not_event hp hi) (.inl hc)⟩
  by_contra ht
  simp [h.constructing_kept (by simpa using ht)] at hc

/-- Settles O44: of all moves only the return of `Step()` adds to CYC. -/
theorem cyclesGrowOnlyByStepReturns : Obligations.CyclesGrowOnlyByStepReturns :=
  fun _ _ h => ⟨(step_next h).2.cyc_cases, (step_next h).2.cyc_le⟩

/-- Settles O45: of all moves only the return of VBlank changes FRM. -/
theorem frameCounterCountsCompletedFrames : Obligations.FrameCounterCountsCompletedFrames := by
  intro s t h hne
  rcases (step_next h).2.frm_cases with heq | ⟨rfl, hin, hf⟩
  · exact absurd heq hne
  · exact ⟨rfl, rfl, rfl, hin, hf⟩

/-- Settles O3: an image of zeros lists no byte. -/
theorem resetIsAConstruction : Obligations.ResetIsAConstruction := by
  have hlen (n : Nat) : (List.replicate n (0 : Byte)).length = n := List.length_replicate
  have himage (base n : Nat) : Memory.image base (List.replicate n 0) = [] := Memory.image_replicate base n
  refine State.construct_eq_some_iff.2 ⟨⟨by decide, hlen _, hlen _, hlen _, hlen _, hlen _⟩, ?_⟩
  simp only [List.replicate_append_replicate, State.constructed, himage]
  rfl

/-- Settles O60: reset is a construction, and every constructed session meets the invariant. -/
theorem constructionMeetsTheInvariant : Obligations.ConstructionMeetsTheInvariant := by
  have hinv : ∀ (p : Params) (seg0 seg1 seg2 seg3 vram : List Byte) (s : State),
      State.construct p seg0 seg1 seg2 seg3 vram = some s → s.Inv := by
    intro p seg0 seg1 seg2 seg3 vram s h
    obtain ⟨⟨hp, h0, h1, h2, h3, hv⟩, rfl⟩ := State.construct_eq_some_iff.1 h
    exact constructed_inv hp (by simp [h0, h1, h2, h3]) hv
  exact ⟨hinv _ _ _ _ _ _ _ resetIsAConstruction, hinv⟩

end Sys2Proof.Machine
end

section
/-!
PROOFS. Who may issue a move: a memory or port transaction belongs to an engine call (R297).
-/

namespace Sys2Proof.Machine

/-- Settles O57: R297 asks for an outstanding engine call of a transaction alone. -/
theorem stepRunsTheDecodedInstruction : Obligations.StepRunsTheDecodedInstruction := by
  refine fun s => ⟨fun r rest i hl hin hd => ⟨fun hhost => ?_, fun _ hf => ?_, fun ht hf => ?_⟩, step_of_nil⟩
  · exact step_of_op hin hd hl fun ht => absurd (hhost.symm.trans ht) Bool.false_ne_true
  · exact step_of_op hin hd hl fun _ => hf
  · exact step_of_op_idle hin hd hl ht hf

end Sys2Proof.Machine
end

section
/-!
PROOFS. The decode tables (R100 to R109): the rows of a format tile its selecting field, the decoder answers the
row a value lies in, and encoder and decoder are inverse to each other.
-/

namespace Sys2Proof

open Machine

/-! ### Rows as blocks of values -/

/-- The row fixes all but the low `k` bits of the field, for some `k` (R101). -/
abbrev Row.IsBlock {w : Nat} {α : Type} (r : Row w α) : Prop :=
  ∃ k ≤ w, r.mask.toNat = 2 ^ w - 2 ^ k ∧ r.matchBits.toNat % 2 ^ k = 0

/-- The first value that such a row accepts, and the first past those. -/
def Row.block {w : Nat} {α : Type} (r : Row w α) : Nat × Nat :=
  (r.matchBits.toNat, r.matchBits.toNat + (2 ^ w - r.mask.toNat))

theorem Row.IsBlock.accepts_eq {w : Nat} {α : Type} {r : Row w α} (h : r.IsBlock) (v : BitVec w) :
    r.accepts v = decide (r.block.1 ≤ v.toNat ∧ v.toNat < r.block.2) := by
  obtain ⟨k, hk, hmask, hbits⟩ := h
  refine Row.accepts_block r.make _ _ k _ _ v hk hmask rfl hbits ?_
  rw [Row.block, hmask, Nat.sub_sub_self (Nat.pow_le_pow_right Nat.two_pos hk)]

/-- The blocks follow one another from `lo` to `hi`, with neither gap nor overlap. -/
def Tiles (lo hi : Nat) : List (Nat × Nat) → Prop
  | [] => lo = hi
  | b :: bs => b.1 = lo ∧ lo ≤ b.2 ∧ Tiles b.2 hi bs

theorem Tiles.le {lo hi : Nat} {bs : List (Nat × Nat)} (h : Tiles lo hi bs) : lo ≤ hi := by
  induction bs generalizing lo with
  | nil => exact Nat.le_of_eq h
  | cons b bs ih => exact h.2.1.trans (ih h.2.2)

/-- A number from `lo` to `hi` lies in exactly one of the blocks, any other number in none. -/
theorem Tiles.countP_eq {lo hi : Nat} {bs : List (Nat × Nat)} (h : Tiles lo hi bs) (n : Nat) :
    bs.countP (fun b => decide (b.1 ≤ n ∧ n < b.2)) = if lo ≤ n ∧ n < hi then 1 else 0 := by
  induction bs generalizing lo with
  | nil =>
    cases h
    rw [List.countP_nil, if_neg (by omega)]
  | cons b bs ih =>
    obtain ⟨hlo, hb, hbs⟩ := h
    have := hbs.le
    rw [List.countP_cons, ih hbs]
    simp only [decide_eq_true_eq]
    split_ifs <;> omega

/-- Rows whose blocks tile the field, in whatever order they stand, accept each value exactly once. -/
theorem countP_accepts_eq_one {w : Nat} {α : Type} {rows : List (Row w α)} (hrows : ∀ r ∈ rows, r.IsBlock)
    {bs : List (Nat × Nat)} (hperm : (rows.map Row.block).Perm bs) (hbs : Tiles 0 (2 ^ w) bs) (v : BitVec w) :
    rows.countP (·.accepts v) = 1 := by
  calc rows.countP (·.accepts v)
      = rows.countP (fun r => decide (r.block.1 ≤ v.toNat ∧ v.toNat < r.block.2)) :=
        List.countP_congr fun r hr => by rw [(hrows r hr).accepts_eq]
    _ = bs.countP (fun b => decide (b.1 ≤ v.toNat ∧ v.toNat < b.2)) := by
        rw [← hperm.countP_eq, List.countP_map]
        rfl
    _ = 1 := by rw [hbs.countP_eq, if_pos ⟨Nat.zero_le _, v.isLt⟩]

/-- Settles O55: the rows of a format are blocks that tile its field (the output ids are the defaults, log 1). -/
theorem tableRowsAreDisjointAndExhaustive : Obligations.TableRowsAreDisjointAndExhaustive :=
  ⟨countP_accepts_eq_one (by decide)
    (bs := [(0, 0x2000), (0x2000, 0x2400), (0x2400, 0x2800), (0x2800, 0x3000), (0x3000, 0x4000),
      (0x4000, 0x8000), (0x8000, 0x10000)]) (by decide) (by simp [Tiles]),
   countP_accepts_eq_one (by decide)
    (bs := [(0, 0x2000), (0x2000, 0x2400), (0x2400, 0x2800), (0x2800, 0x3000), (0x3000, 0x4000),
      (0x4000, 0x4200), (0x4200, 0x4400), (0x4400, 0x4800), (0x4800, 0x5000), (0x5000, 0x6000),
      (0x6000, 0x8000), (0x8000, 0x10000)]) (by decide) (by simp [Tiles]),
   countP_accepts_eq_one (by decide)
    (bs := [(0, 1), (1, 2), (2, 3), (3, 4), (4, 8), (8, 0x10), (0x10, 0x20), (0x20, 0x40), (0x40, 0x80),
      (0x80, 0x100)]) (by decide) (by simp [Tiles]),
   countP_accepts_eq_one (by decide)
    (bs := [(0, 2), (2, 3), (3, 4), (4, 5), (5, 6), (6, 7), (7, 8), (8, 0x10), (0x10, 0x20), (0x20, 0x40),
      (0x40, 0x80), (0x80, 0x100)]) (by decide) (by simp [Tiles])⟩

/-! ### Encoding what was decoded -/

/-- A value of a row's block is read back from the row's pattern and the value's low bits (R101, R107). -/
theorem fill_low_bits {w n lo : Nat} {v : BitVec w} (hlo : lo ≤ v.toNat) (hhi : v.toNat < lo + 2 ^ n)
    (hw : lo + 2 ^ n ≤ 2 ^ w) (hdvd : lo % 2 ^ n = 0) : fill (BitVec.ofNat w lo) (v.setWidth n) = v := by
  have hlt : lo < 2 ^ w := Nat.lt_of_lt_of_le (Nat.lt_add_of_pos_right n.two_pow_pos) hw
  have htoNat : (BitVec.ofNat w lo).toNat = lo := by rw [BitVec.toNat_ofNat, Nat.mod_eq_of_lt hlt]
  exact fill_setWidth_self _ v (by rwa [htoNat]) (by rwa [htoNat]) (by rwa [htoNat]) (by rwa [htoNat])

/-- The instruction is well formed and its encoding is the request. -/
def Instr.StandsFor (p : Params) (r : Request) (i : Instr) : Prop := i.wf p = true ∧ encode p i = some r

/-- A MEM_RD request has its row; the formats after it in the same way. -/
theorem memRd_has_row (p : Params) (addr : Addr) :
    ∃ i, decode p (.memRd addr) = .ok i ∧ i.StandsFor p (.memRd addr) := by
  refine ⟨_, decode_memRd p addr, ?_⟩
  have := addr.isLt
  repeat' refine iteInduction (fun _ => ?_) fun _ => ?_
  all_goals exact ⟨rfl, by simp (disch := omega) only [encode, fill_low_bits]⟩

theorem memWr_has_row (p : Params) (addr : Addr) (data : Byte) :
    ∃ i, decode p (.memWr addr data) = .ok i ∧ i.StandsFor p (.memWr addr data) := by
  refine ⟨_, decode_memWr p addr data, ?_⟩
  have := addr.isLt
  repeat' refine iteInduction (fun _ => ?_) fun _ => ?_
  all_goals exact ⟨rfl, by simp (disch := omega) only [encode, fill_low_bits]⟩

theorem ioIn_has_row (p : Params) (port : PortId) :
    ∃ i, decode p (.ioIn port) = .ok i ∧ i.StandsFor p (.ioIn port) := by
  refine ⟨_, decode_ioIn p port, ?_⟩
  have := port.isLt
  have hid {n : Nat} (h : port.toNat = n) : some (Request.ioIn (BitVec.ofNat 8 n)) = some (.ioIn port) := by
    rw [← h, BitVec.ofNat_toNat, BitVec.setWidth_eq]
  iterate 4 refine iteInduction (fun h => ⟨rfl, hid h⟩) fun _ => ?_
  repeat' refine iteInduction (fun _ => ?_) fun _ => ?_
  all_goals exact ⟨rfl, by simp (disch := omega) only [encode, fill_low_bits]⟩

theorem ioOut_has_row (p : Params) (port : PortId) (data : Byte) :
    ∃ i, decode p (.ioOut port data) = .ok i ∧ i.StandsFor p (.ioOut port data) := by
  refine ⟨_, decode_ioOut p port data, ?_⟩
  have := port.isLt
  iterate 5 refine iteInduction (fun h => ⟨rfl, h ▸ rfl⟩) fun _ => ?_
  have hu : p.undecodedOut port := by simp [Params.undecodedOut, Params.outIds, *]
  have hwide (_ : ¬port.toNat < 2) (_ : port.toNat < 8) :
      (Instr.outUnknownB port data).StandsFor p (.ioOut port data) :=
    ⟨decide_eq_true ⟨by omega, by omega, hu⟩, rfl⟩
  refine iteInduction (fun _ => ?_) fun h => iteInduction (hwide h) fun _ => ?_
  repeat' refine iteInduction (fun _ => ?_) fun _ => ?_
  all_goals
    constructor
    · simpa (disch := omega) only [Instr.wf, fill_low_bits, decide_eq_true_eq] using hu
    · simp (disch := omega) only [encode, fill_low_bits]

theorem evt_has_row (p : Params) (event : Event) (pressed : Bool) :
    ∃ i, decode p (.evt event pressed) = .ok i ∧ i.StandsFor p (.evt event pressed) := by
  cases event <;> exact ⟨_, rfl, rfl, rfl⟩

theorem cmd_has_row (p : Params) (op : Command) :
    ∃ i, decode p (.cmd op) = .ok i ∧ i.StandsFor p (.cmd op) := by
  cases op <;> exact ⟨_, rfl, rfl, rfl⟩

/-- Settles O54: format by format, each value lies in the row that the decoder answers. -/
theorem everyRequestHasItsRow : Obligations.EveryRequestHasItsRow := by
  intro p r
  cases r with
  | memRd addr => exact memRd_has_row p addr
  | memWr addr data => exact memWr_has_row p addr data
  | ioIn port => exact ioIn_has_row p port
  | ioOut port data => exact ioOut_has_row p port data
  | evt event pressed => exact evt_has_row p event pressed
  | cfgLives | cfgCoininfo | cfgBonus => exact ⟨_, rfl, rfl, rfl⟩
  | cmd op => exact cmd_has_row p op

/-! ### Decoding what was encoded -/

open Laws.RoundTrip in
/-- Settles O53: the round trip of each row, in the order of the constructors. -/
theorem decodeOfEncode : Obligations.DecodeOfEncode := fun i =>
  i.casesOn (motive := Statement)
    -- MEM_RD
    memrdRom memrdRam memrdVramA memrdVramB memrdVramC memrdMirrorA memrdMirrorB
    -- MEM_WR
    memwrRom memwrRam memwrVramA memwrVramB memwrVramC memwrWindow memwrMirrorA memwrMirrorB memwrMirrorC
    memwrMirrorD memwrMirrorE memwrMirrorF
    -- IO_IN
    inP1 inP2 inShift inUnknownA inUnknownB inUnknownC inUnknownD inUnknownE inUnknownF inUnknownG
    -- IO_OUT
    outShiftOffset outSoundA outShiftData outSoundB outWatchdog outUnknownA outUnknownB outUnknownC
    outUnknownD outUnknownE outUnknownF outUnknownG
    -- EVT
    evtCoin evtTilt evtP1Start evtP1Shoot evtP1Left evtP1Right evtP2Start evtP2Shoot evtP2Left evtP2Right
    -- CFG
    cfgLives cfgCoininfo cfgBonus
    -- CMD
    livesQ bonusQ frame
    -- MICRO
    srPush srRead srSetOffset

/-- Settles O56: the ten words run through the decoder. -/
theorem sampleWordsDecode : Obligations.SampleWordsDecode := by
  unfold Obligations.SampleWordsDecode
  decide

end Sys2Proof
end

section
/-!
PROOFS. Who may apply a strap and until when (R105, R235).
-/

namespace Sys2Proof.Machine

/-- A strap after construction is refused by name (R235). -/
theorem onConstruction_of_over {s : State} (h : s.status = .live) (hc : s.constructing = false) (o : Outcome) :
    onConstruction s o = .refused .constructionOver := by
  simp [onConstruction, h, hc]

theorem onLive_ends_construction {s t u : State} (h : onLive s (.next u) = .next t)
    (hu : u.constructing = false) : t.constructing = false := by
  obtain ⟨-, ⟨⟩⟩ := onLive_next h
  exact hu

theorem onHost_ends_construction {s t u : State} (h : onHost s (.next u) = .next t)
    (hu : u.constructing = false) : t.constructing = false := by
  obtain ⟨-, -, ⟨⟩⟩ := onHost_next h
  exact hu

/-- Every instruction but a strap ends construction (R105, R323). -/
theorem exec_ends_construction {i : Instr} {s t : State} (h : exec i s = .next t)
    (hlives : ∀ n, i ≠ .cfgLives n) (hcoininfo : ∀ b, i ≠ .cfgCoininfo b) (hbonus : ∀ b, i ≠ .cfgBonus b) :
    t.constructing = false := by
  cases i with
  | cfgLives n => exact absurd rfl (hlives n)
  | cfgCoininfo b => exact absurd rfl (hcoininfo b)
  | cfgBonus b => exact absurd rfl (hbonus b)
  | evtCoin | evtTilt | evtP1Start | evtP1Shoot | evtP1Left | evtP1Right | evtP2Start | evtP2Shoot
  | evtP2Left | evtP2Right | livesQ | bonusQ | frame => exact onHost_ends_construction h rfl
  | memrdMirrorA | memrdMirrorB | memwrRom | memwrMirrorA | memwrMirrorB | memwrMirrorC | memwrMirrorD
  | memwrMirrorE | memwrMirrorF => exact onLive_ends_construction h (State.routerFault_constructing s _)
  | _ => exact onLive_ends_construction h rfl

/-- Settles O37: a strap asks for construction, which the answer of every other instruction ends. -/
theorem strapsApplyOnlyDuringConstruction : Obligations.StrapsApplyOnlyDuringConstruction :=
  ⟨fun _ hl hc => ⟨fun _ => onConstruction_of_over hl hc _, fun _ => onConstruction_of_over hl hc _,
    fun _ => onConstruction_of_over hl hc _⟩, fun _ _ _ h => exec_ends_construction h⟩

end Sys2Proof.Machine
end

section
/-!
PROOFS. A bare table word as the next move (log 10).
-/

namespace Sys2Proof.Machine

theorem State.inCall_of_running {s : State} (h : s.frame ≠ none) : s.inCall = s := by
  obtain ⟨fr, hf⟩ := Option.ne_none_iff_exists'.1 h
  rw [State.inCall, hf]

theorem State.inCall_of_idle {s : State} (h : s.frame = none) : s.inCall = s.beginFrame := by
  rw [State.inCall, h]

/-- `inCall` has an engine call outstanding, and the moves, the parameters and the status of the session. -/
theorem State.inCall_spec (s : State) :
    s.inCall.params = s.params ∧ s.inCall.status = s.status ∧ s.inCall.inputs = s.inputs ∧
      s.inCall.frame ≠ none := by
  by_cases h : s.frame = none
  · simp [State.inCall_of_idle h]
  · simp [State.inCall_of_running h, h]

/-- The instruction of a bare word is that of its request. -/
theorem decodeTableWord_eq_some {nbits w : Nat} {i : Instr} (h : decodeTableWord nbits w = some i) :
    ∃ r, tableRequest nbits w = some r ∧ decode Params.default r = .ok i := by
  obtain ⟨r, hr, hd⟩ := Option.bind_eq_some_iff.1 h
  refine ⟨r, hr, ?_⟩
  cases hdec : decode Params.default r with
  | ok j => simpa [hdec, Except.toOption] using hd
  | error e => simp [hdec, Except.toOption] at hd

/-- Settles O58: the word's request is the next move, and `inCall` has the engine call that a transaction needs. -/
theorem fetchedWordRunsNext : Obligations.FetchedWordRunsNext := by
  intro s nbits w i hp hl hw
  obtain ⟨r, hr, hd⟩ := decodeTableWord_eq_some hw
  obtain ⟨hparams, hstatus, hinputs, hcall⟩ := s.inCall_spec
  refine ⟨?_, State.inCall_of_running, fun hf => ?_⟩
  · have hword : s.withFetchWord nbits w = { s.inCall with inputs := .op r :: s.inputs } := by
      rw [State.withFetchWord, hr]
    rw [hword, ← hinputs]
    exact step_of_op rfl (by rw [hparams.trans hp]; exact hd) (hstatus.trans hl) fun _ => hcall
  · rw [State.inCall_of_idle hf]
    exact onHost_of_idle hl hf _

end Sys2Proof.Machine
end

section
/-!
PROOFS. The memory router (R140 to R161): what each MEM_RD and MEM_WR row answers, the address maps of R140 and
R141, and that memory changes by a store alone.

Rows of one region share a meaning (`readBank`, `readMirror`, `writeBank`, `writeMirror`). Each has one lemma at a
row's address, fixed bits and free bits, and the statements about rows are read off it.
-/

namespace Sys2Proof.Machine

/-! ### Rows with storage -/

/-- A read row at element `i` of its bank (R66). -/
theorem readBank_fill {n : Nat} {s : State} (hl : s.status = .live) {b : Bank} {fixed : Addr} {free : BitVec n}
    {i : Nat} (hfit : fixed.toNat + 2 ^ n ≤ 2 ^ 16) (hi : fixed.toNat + free.toNat = b.base + i) :
    readBank b (fill fixed free) s = .next (s.returns (.byte (s.bankByte b i))) := by
  have hindex : bankIndex b (fill fixed free) = i := by
    rw [bankIndex, fill_toNat _ _ hfit, hi, Nat.add_sub_cancel_left]
  rw [readBank, onLive_of_live hl, hindex]

/-- A store row writes at its own address (R66). -/
theorem writeBank_fill {n : Nat} {s : State} (hl : s.status = .live) {b : Bank} {fixed : Addr} {free : BitVec n}
    (d : Byte) (hfit : fixed.toNat + 2 ^ n ≤ 2 ^ 16) (hb : b.base ≤ fixed.toNat) :
    writeBank b (fill fixed free) d s = .next { s with
      mem := s.mem.write (fixed.toNat + free.toNat) d, result := .ok, constructing := false } := by
  have haddr : b.base + bankIndex b (fill fixed free) = fixed.toNat + free.toNat := by
    rw [bankIndex_fill _ _ _ hfit hb]
    omega
  rw [writeBank, onLive_of_live hl, State.setBankByte, haddr]
  rfl

/-- Settles O6: each row's base is its bank's base and the row's offset in the bank. -/
theorem bankReadsReturnTheByte : Obligations.BankReadsReturnTheByte := fun _ hl =>
  ⟨fun _ => readBank_fill hl (by decide) rfl, fun _ => readBank_fill hl (by decide) rfl,
    fun _ => readBank_fill hl (by decide) rfl,
    fun a => readBank_fill hl (by decide) (Nat.add_assoc 0x2400 0x400 a.toNat),
    fun a => readBank_fill hl (by decide) (Nat.add_assoc 0x2400 0xC00 a.toNat)⟩

/-- Settles O9: the four rows store at their own addresses. -/
theorem bankWritesStoreTheByte : Obligations.BankWritesStoreTheByte := fun _ hl =>
  ⟨fun _ d => writeBank_fill hl d (by decide) (by decide), fun _ d => writeBank_fill hl d (by decide) (by decide),
    fun _ d => writeBank_fill hl d (by decide) (by decide), fun _ d => writeBank_fill hl d (by decide) (by decide)⟩

/-- Settles O10: the laws of `Memory.write`, at the address that O9 gives for the row. -/
theorem storesChangeOneByte : Obligations.StoresChangeOneByte := by
  intro s t d hm i addr hi h
  obtain ⟨hram, ha, hb, hc⟩ := bankWritesStoreTheByte s (exec_next h).1
  have hstore : addr < storageEnd ∧ exec i s =
      .next { s with mem := s.mem.write addr d, result := .ok, constructing := false } := by
    unfold storageEnd
    rcases hi with ⟨a, rfl, rfl⟩ | ⟨a, rfl, rfl⟩ | ⟨a, rfl, rfl⟩ | ⟨a, rfl, rfl⟩
    · exact ⟨by omega, hram a d⟩
    · exact ⟨by omega, ha a d⟩
    · exact ⟨by omega, hb a d⟩
    · exact ⟨by omega, hc a d⟩
  obtain ⟨haddr, hexec⟩ := hstore
  cases hexec.symm.trans h
  exact ⟨Memory.read_write_same hm.1 _ _, Memory.wf_write hm haddr d,
    fun _ hne => Memory.read_write_other _ (Ne.symm hne) d⟩

/-! ### Rows that fault -/

/-- With no FRAME in progress a router fault is the transaction's result and changes nothing else (R161). -/
theorem onLive_routerFault {s : State} (hl : s.status = .live) (hf : s.frame = none) (f : RouterFault) :
    onLive s (.next (s.routerFault f)) = .next { s with result := .fault f, constructing := false } := by
  rw [onLive_of_live hl, State.routerFault_of_idle hf]
  rfl

theorem readMirror_fill {n : Nat} {s : State} (hl : s.status = .live) (hf : s.frame = none) {fixed : Addr}
    {free : BitVec n} (hfit : fixed.toNat + 2 ^ n ≤ 2 ^ 16) :
    readMirror (fill fixed free) s = .next { s with
      result := .fault (.unmappedAccess (.read (BitVec.ofNat 16 (fixed.toNat + free.toNat)))),
      constructing := false } := by
  rw [readMirror, onLive_routerFault hl hf, fill_eq_ofNat _ _ hfit]

theorem writeMirror_fill {n : Nat} {s : State} (hl : s.status = .live) (hf : s.frame = none) {fixed : Addr}
    {free : BitVec n} (d : Byte) (hfit : fixed.toNat + 2 ^ n ≤ 2 ^ 16) :
    writeMirror (fill fixed free) d s = .next { s with
      result := .fault (.unmappedAccess (.write (BitVec.ofNat 16 (fixed.toNat + free.toNat)) d)),
      constructing := false } := by
  rw [writeMirror, onLive_routerFault hl hf, fill_eq_ofNat _ _ hfit]

/-- Settles O7: both rows are `readMirror` at their own address. -/
theorem mirrorReadsFault : Obligations.MirrorReadsFault := fun _ hl hf =>
  ⟨fun _ => readMirror_fill hl hf (by decide), fun _ => readMirror_fill hl hf (by decide)⟩

/-- Settles O13: the six rows are `writeMirror` at their own address. -/
theorem mirrorWritesFault : Obligations.MirrorWritesFault := by
  rintro s hl hf i addr d (⟨a, rfl, rfl⟩ | ⟨a, rfl, rfl⟩ | ⟨a, rfl, rfl⟩ | ⟨a, rfl, rfl⟩ | ⟨a, rfl, rfl⟩ |
    ⟨a, rfl, rfl⟩)
  all_goals exact writeMirror_fill hl hf d (by decide)

/-- Settles O11: the ROM bank begins at address 0, so the free bits are the address. -/
theorem romWriteFaults : Obligations.RomWriteFaults := by
  intro s hl hf a d
  have haddr : fill 0x0000#16 a = BitVec.ofNat 16 a.toNat := by
    rw [fill_eq_ofNat _ _ (by decide), BitVec.toNat_ofNat, Nat.zero_mod, Nat.zero_add]
  rw [← haddr]
  exact onLive_routerFault hl hf _

/-! ### The address maps -/

/-- MEMRD by its address (R140): the row that decodes has the meaning of the address's bank. -/
theorem exec_of_decode_memRd {p : Params} {addr : Addr} {i : Instr} (hd : decode p (.memRd addr) = .ok i)
    (s : State) :
    exec i s = if addr.toNat < 0x2000 then readBank .rom addr s
      else if addr.toNat < 0x2400 then readBank .ram addr s
      else if addr.toNat < 0x4000 then readBank .videoFrame addr s
      else readMirror addr s := by
  have hlt := addr.isLt
  cases (decode_memRd p addr).symm.trans hd
  repeat' refine iteInduction (motive := (exec · s = _)) (fun _ => ?_) fun _ => ?_
  all_goals
    simp (disch := omega) only [if_pos, if_neg, exec, execMemrdRom, execMemrdRam, execMemrdVramA, execMemrdVramB,
      execMemrdVramC, execMemrdMirrorA, execMemrdMirrorB, fill_low_bits]

/-- MEMWR by its address (R141), the window tested first. -/
theorem exec_of_decode_memWr {p : Params} {addr : Addr} {v : Byte} {i : Instr}
    (hd : decode p (.memWr addr v) = .ok i) (s : State) :
    exec i s = if 0x4000 ≤ addr.toNat ∧ addr.toNat < 0x4200 then writeWindow addr v s
      else if addr.toNat < 0x2000 then writeRom addr v s
      else if addr.toNat < 0x2400 then writeBank .ram addr v s
      else if addr.toNat < 0x4000 then writeBank .videoFrame addr v s
      else writeMirror addr v s := by
  have hlt := addr.isLt
  cases (decode_memWr p addr v).symm.trans hd
  repeat' refine iteInduction (motive := (exec · s = _)) (fun _ => ?_) fun _ => ?_
  all_goals
    simp (disch := omega) only [if_pos, if_neg, exec, execMemwrRom, execMemwrRam, execMemwrVramA, execMemwrVramB,
      execMemwrVramC, execMemwrWindow, execMemwrMirrorA, execMemwrMirrorB, execMemwrMirrorC, execMemwrMirrorD,
      execMemwrMirrorE, execMemwrMirrorF, fill_low_bits]

/-- Settles O8: the row of the address answers, bank by bank. -/
theorem decodedReadFollowsTheAddressMap : Obligations.DecodedReadFollowsTheAddressMap := by
  intro s addr hl
  obtain ⟨i, hd, -⟩ := memRd_has_row s.params addr
  refine ⟨i, hd, ?_⟩
  rw [exec_of_decode_memRd hd]
  simp only [readBank, readMirror, onLive_of_live hl]
  split_ifs <;> rfl

/-- Settles O14: the row of the address answers, the window first, then bank by bank. -/
theorem decodedWriteFollowsTheAddressMap : Obligations.DecodedWriteFollowsTheAddressMap := by
  intro s addr v hl
  obtain ⟨i, hd, -⟩ := memWr_has_row s.params addr v
  refine ⟨i, hd, ?_⟩
  rw [exec_of_decode_memWr hd]
  simp only [writeBank, writeWindow, writeRom, writeMirror, onLive_of_live hl]
  split_ifs <;> rfl

/-! ### Reads after a write -/

/-- MEMRD sees memory alone: the byte at an address with storage, else the fault (R61, R140). -/
theorem State.memRead_eq (s : State) (addr : Addr) :
    s.memRead addr = if addr.toNat < 0x4000 then .ok (s.mem.read addr.toNat)
      else .error (.unmappedAccess (.read addr)) := by
  have hread {b : Bank} (hb : b.base ≤ addr.toNat) : s.bankByte b (addr.toNat - b.base) = s.mem.read addr.toNat := by
    rw [State.bankByte, Nat.add_sub_cancel' hb]
  unfold State.memRead
  split_ifs with hrom hram hvideo hstorage
  · exact congrArg Except.ok (hread (b := .rom) (Nat.zero_le _))
  · omega
  · exact congrArg Except.ok (hread (b := .ram) (by simp only [Bank.base]; omega))
  · omega
  · exact congrArg Except.ok (hread (b := .videoFrame) (by simp only [Bank.base]; omega))
  · rfl

/-- Settles O12: the window has no storage, so R146 is what a read of it meets. -/
theorem windowWriteIsIgnored : Obligations.WindowWriteIsIgnored := by
  refine fun s hl a d => ⟨onLive_of_live hl _, fun t _ => ?_⟩
  rw [State.memRead_eq, if_neg]
  rw [BitVec.toNat_ofNat]
  omega

/-- A store into RAM or VRAM writes at the address itself (R66). -/
theorem writeBank_mem {b : Bank} {addr : Addr} {v : Byte} {s t : State} (hb : b.base ≤ addr.toNat)
    (h : writeBank b addr v s = .next t) : t.mem = s.mem.write addr.toNat v := by
  obtain ⟨-, ⟨⟩⟩ := onLive_next h
  rw [State.returns_mem, State.setBankByte_mem, bankIndex, Nat.add_sub_cancel' hb]

/-- An answer from a state with the same memory leaves memory as it was. -/
theorem onLive_keeps_mem {s t u : State} (h : onLive s (.next u) = .next t) (hu : u.mem = s.mem) :
    t.mem = s.mem := by
  obtain ⟨-, ⟨⟩⟩ := onLive_next h
  exact hu

theorem onHost_keeps_mem {s t u : State} (h : onHost s (.next u) = .next t) (hu : u.mem = s.mem) :
    t.mem = s.mem := by
  obtain ⟨-, -, ⟨⟩⟩ := onHost_next h
  exact hu

/-- What a MEMWR does to memory: it writes its byte at its address in RAM and VRAM, and nothing elsewhere
(R150 to R154, R161). -/
theorem mem_of_decode_memWr {p : Params} {addr : Addr} {v : Byte} {i : Instr} {s t : State}
    (hd : decode p (.memWr addr v) = .ok i) (h : exec i s = .next t) :
    t.mem = if 0x2000 ≤ addr.toNat ∧ addr.toNat < 0x4000 then s.mem.write addr.toNat v else s.mem := by
  rw [exec_of_decode_memWr hd] at h
  split_ifs at h with hwindow hrom hram hvideo
  · rw [if_neg (by omega)]
    exact onLive_keeps_mem h rfl
  · rw [if_neg (by omega)]
    exact onLive_keeps_mem h (State.routerFault_mem s _)
  · rw [if_pos (by omega)]
    exact writeBank_mem (by simp only [Bank.base]; omega) h
  · rw [if_pos (by omega)]
    exact writeBank_mem (by simp only [Bank.base]; omega) h
  · rw [if_neg (by omega)]
    exact onLive_keeps_mem h (State.routerFault_mem s _)

/-- Settles O15: `mem_of_decode_memWr`, seen through `State.memRead_eq`. -/
theorem readAfterWrite : Obligations.ReadAfterWrite := by
  intro s t a b v i hm hd h
  have hmem := mem_of_decode_memWr hd h
  simp only [State.memRead_eq]
  by_cases ha : 0x2000 ≤ a.toNat ∧ a.toNat < 0x4000
  · rw [if_pos ha] at hmem
    refine ⟨fun _ => ?_, fun hn => absurd ha hn, fun hne => ?_⟩
    · rw [if_pos ha.2, hmem, Memory.read_write_same hm.1]
    · rw [hmem, Memory.read_write_other _ fun hab => hne (BitVec.eq_of_toNat_eq hab.symm)]
  · rw [if_neg ha] at hmem
    exact ⟨fun h => absurd h ha, fun _ => by rw [hmem], fun _ => by rw [hmem]⟩

/-! ### Steps that change memory -/

/-- An instruction that no MEMWR request decodes to leaves memory as it is (R161). -/
theorem exec_keeps_mem {p : Params} {i : Instr} {s t : State} (hw : ∀ addr v, encode p i ≠ some (.memWr addr v))
    (h : exec i s = .next t) : t.mem = s.mem := by
  cases i with
  | memwrRom | memwrRam | memwrVramA | memwrVramB | memwrVramC | memwrWindow | memwrMirrorA | memwrMirrorB
  | memwrMirrorC | memwrMirrorD | memwrMirrorE | memwrMirrorF => exact absurd rfl (hw _ _)
  | memrdMirrorA | memrdMirrorB => exact onLive_keeps_mem h (State.routerFault_mem s _)
  | evtCoin pressed | evtTilt pressed | evtP1Start pressed | evtP1Shoot pressed | evtP1Left pressed
  | evtP1Right pressed | evtP2Start pressed | evtP2Shoot pressed | evtP2Left pressed | evtP2Right pressed =>
    exact onHost_keeps_mem h (State.applyEvent_mem s _ pressed)
  | livesQ | bonusQ | frame => exact onHost_keeps_mem h rfl
  | cfgLives | cfgCoininfo | cfgBonus =>
    obtain ⟨-, -, ⟨⟩⟩ := onConstruction_next h
    rfl
  | _ => exact onLive_keeps_mem h rfl

/-- The instruction of a request encodes to it (R108). -/
theorem encode_of_decode {p : Params} {r : Request} {i : Instr} (h : decode p r = .ok i) :
    encode p i = some r := by
  obtain ⟨j, hj, -, he⟩ := everyRequestHasItsRow p r
  cases hj.symm.trans h
  exact he

/-- A request whose instruction changes memory is a MEMWR (R161). -/
theorem isMemWr_of_mem_ne {p : Params} {r : Request} {i : Instr} {s t : State} (hd : decode p r = .ok i)
    (h : exec i s = .next t) (hne : t.mem ≠ s.mem) : ∃ addr v, r = .memWr addr v := by
  by_contra! hr
  exact hne (exec_keeps_mem (p := p) (fun addr v he =>
    hr addr v (Option.some.inj ((encode_of_decode hd).symm.trans he))) h)

/-- Settles O16: of all moves only an executed request changes memory, of all requests only a MEMWR, and R297 lets
it be issued inside a FRAME alone. -/
theorem onlyAStoreChangesMemory : Obligations.OnlyAStoreChangesMemory := by
  intro s t a hm h hne
  have hmem : t.mem ≠ s.mem := fun h => hne (h ▸ rfl)
  cases (step_next h).2 with
  | executed r rest i t hin hd he hc =>
    obtain ⟨addr, v, rfl⟩ := isMemWr_of_mem_ne hd he hmem
    have hwrite := mem_of_decode_memWr hd he
    by_cases hrange : 0x2000 ≤ addr.toNat ∧ addr.toNat < 0x4000
    · rw [if_pos hrange] at hwrite
      obtain rfl : addr.toNat = a := by
        by_contra haddr
        exact hne (hwrite ▸ Memory.read_write_other _ haddr v)
      have hread : t.mem.read addr.toNat = v := hwrite ▸ Memory.read_write_same hm.1 _ v
      rw [hread, BitVec.ofNat_toNat, BitVec.setWidth_eq]
      exact ⟨hrange.1, hrange.2, hc rfl, rest, hin⟩
    · rw [if_neg hrange] at hwrite
      exact absurd hwrite hmem
  | _ => exact absurd rfl hmem

end Sys2Proof.Machine
end

section
/-!
PROOFS. The shift register (R170 to R174): what its three operations and the ports over them answer, and that
nothing else changes it.
-/

namespace Sys2Proof.Machine

/-! ### The three operations -/

/-- Settles O18: the micro-operation and the port both answer `State.srPush`. -/
theorem pushShiftsTheByteIn : Obligations.PushShiftsTheByteIn := fun s b hl =>
  ⟨pushed s.srValue b, pushed_toNat _ _, onLive_of_live hl _, onLive_of_live hl _⟩

/-- Settles O19: the micro-operation and the port both answer `State.srSetOffset`. -/
theorem setOffsetKeepsThreeBits : Obligations.SetOffsetKeepsThreeBits := fun _ b hl =>
  ⟨offsetOperand b, offsetOperand_toNat b, onLive_of_live hl _, onLive_of_live hl _⟩

/-- The window is bits `15 − offset` down to `8 − offset` of the value (R171). -/
theorem window_eq_extractLsb' (v : BitVec 16) (o : BitVec 3) :
    window v o = v.extractLsb' (8 - o.toNat) 8 := by
  apply BitVec.eq_of_toNat_eq
  rw [window_toNat, BitVec.extractLsb'_toNat, Nat.shiftRight_eq_div_pow]

/-- The window is the high byte of `value << offset`: the offset is at most 7, so bit `8 + i` of the shifted value is
bit `8 − offset + i` of the value (R171). -/
theorem window_eq_high_byte (v : BitVec 16) (o : BitVec 3) :
    window v o = (v <<< o.toNat).extractLsb' 8 8 := by
  rw [window_eq_extractLsb']
  apply BitVec.eq_of_getLsbD_eq
  intro i hi
  have ho : o.toNat < 8 := o.isLt
  have hbit : 8 + i - o.toNat = 8 - o.toNat + i := by omega
  have hkept : ¬8 + i < o.toNat := by omega
  have hin : 8 + i < 16 := by omega
  rw [BitVec.getLsbD_extractLsb', BitVec.getLsbD_extractLsb', BitVec.getLsbD_shiftLeft, hbit]
  simp only [hkept, hin, decide_true, decide_false, Bool.not_false, Bool.true_and]

/-- Settles O20: the micro-operation and IN 3 both answer the window, in its three forms. -/
theorem shiftReadReturnsTheWindow : Obligations.ShiftReadReturnsTheWindow := fun s hl =>
  ⟨s.srRead, window_toNat _ _, window_eq_extractLsb' _ _, window_eq_high_byte _ _, onLive_of_live hl _,
    onLive_of_live hl _⟩

/-! ### What changes the register -/

/-- An instruction keeps both fields, or is one of the two that push, or one of the two that set the offset
(R174). -/
theorem exec_shiftRegister_cases {i : Instr} {s t : State} (h : exec i s = .next t) :
    (t.srValue = s.srValue ∧ t.srOffset = s.srOffset) ∨
    (∃ b, (i = .outShiftData b ∨ i = .srPush b) ∧ t = (s.srPush b).returns .nothing) ∨
    (∃ b, (i = .outShiftOffset b ∨ i = .srSetOffset b) ∧ t = (s.srSetOffset b).returns .nothing) := by
  cases i with
  | outShiftData b | srPush b =>
    obtain ⟨-, ⟨⟩⟩ := onLive_next h
    exact .inr (.inl ⟨b, by simp, rfl⟩)
  | outShiftOffset b | srSetOffset b =>
    obtain ⟨-, ⟨⟩⟩ := onLive_next h
    exact .inr (.inr ⟨b, by simp, rfl⟩)
  | memrdMirrorA | memrdMirrorB | memwrRom | memwrMirrorA | memwrMirrorB | memwrMirrorC | memwrMirrorD
  | memwrMirrorE | memwrMirrorF =>
    obtain ⟨-, ⟨⟩⟩ := onLive_next h
    exact .inl ⟨State.routerFault_srValue s _, State.routerFault_srOffset s _⟩
  | evtCoin pressed | evtTilt pressed | evtP1Start pressed | evtP1Shoot pressed | evtP1Left pressed
  | evtP1Right pressed | evtP2Start pressed | evtP2Shoot pressed | evtP2Left pressed | evtP2Right pressed =>
    obtain ⟨-, -, ⟨⟩⟩ := onHost_next h
    exact .inl ⟨State.applyEvent_srValue s _ pressed, State.applyEvent_srOffset s _ pressed⟩
  | livesQ | bonusQ | frame =>
    obtain ⟨-, -, ⟨⟩⟩ := onHost_next h
    exact .inl ⟨rfl, rfl⟩
  | cfgLives | cfgCoininfo | cfgBonus =>
    obtain ⟨-, -, ⟨⟩⟩ := onConstruction_next h
    exact .inl ⟨rfl, rfl⟩
  | _ =>
    obtain ⟨-, ⟨⟩⟩ := onLive_next h
    exact .inl ⟨rfl, rfl⟩

theorem exec_keeps_srValue {i : Instr} {s t : State} (h : exec i s = .next t)
    (hi : ∀ b, i ≠ .outShiftData b ∧ i ≠ .srPush b) : t.srValue = s.srValue := by
  rcases exec_shiftRegister_cases h with ⟨hvalue, -⟩ | ⟨b, hpush, -⟩ | ⟨_, -, rfl⟩
  · exact hvalue
  · exact absurd hpush (not_or.2 (hi b))
  · rfl

theorem exec_keeps_srOffset {i : Instr} {s t : State} (h : exec i s = .next t)
    (hi : ∀ b, i ≠ .outShiftOffset b ∧ i ≠ .srSetOffset b) : t.srOffset = s.srOffset := by
  rcases exec_shiftRegister_cases h with ⟨-, hoffset⟩ | ⟨_, -, rfl⟩ | ⟨b, hset, -⟩
  · exact hoffset
  · rfl
  · exact absurd hset (not_or.2 (hi b))

/-- A move that is no operation keeps both fields: the returns of the engine and its faults (R174). -/
theorem Move.keeps_shiftRegister {s t : State} (h : Move s t) (hop : ∀ r rest, s.inputs ≠ .op r :: rest) :
    t.srValue = s.srValue ∧ t.srOffset = s.srOffset := by
  cases h with
  | executed r rest _ _ hin => exact absurd hin (hop r rest)
  | _ => exact ⟨rfl, rfl⟩

/-- Settles O22: of the instructions only the four of `exec_shiftRegister_cases` change a field, and no return of the
engine changes one. -/
theorem shiftRegisterChangesOnlyByItsPorts : Obligations.ShiftRegisterChangesOnlyByItsPorts :=
  ⟨fun _ _ _ => exec_keeps_srValue, fun _ _ _ => exec_keeps_srOffset,
    fun _ _ h => (step_next h).2.keeps_shiftRegister⟩

end Sys2Proof.Machine
end

section
/-!
PROOFS. The port controller (R190 to R236): the port maps of IN and OUT, the control events, the straps and their
readers, and that nothing else writes P1 or P2.

An event writes one position of the port bytes (`State.writePortBit`) and a strap one field of P2. Both have their
laws in terms of `writeBit`, and the statements about operations are read off those.
-/

namespace Sys2Proof.Machine

/-! ### Single bits of a byte -/

/-- Of two writes of one bit the last wins. -/
@[simp] theorem writeBit_writeBit_same (b : Byte) (i : Fin 8) (v w : Bool) :
    writeBit (writeBit b i v) i w = writeBit b i w := by
  apply byte_ext
  intro j
  simp only [readBit_writeBit]
  split_ifs <;> rfl

/-- Writes of different bits commute. -/
theorem writeBit_comm {i j : Fin 8} (h : i ≠ j) (b : Byte) (v w : Bool) :
    writeBit (writeBit b i v) j w = writeBit (writeBit b j w) i v := by
  apply byte_ext
  intro k
  simp only [readBit_writeBit]
  split_ifs with hj hi
  · exact absurd (hi.trans hj.symm) h
  all_goals rfl

/-! ### Positions in the port bytes (R29) -/

@[simp] theorem State.writePortBit_port1 (s : State) (i : Fin 8) (v : Bool) :
    s.writePortBit ⟨.port1, i⟩ v = { s with p1 := writeBit s.p1 i v } := rfl

@[simp] theorem State.writePortBit_port2 (s : State) (i : Fin 8) (v : Bool) :
    s.writePortBit ⟨.port2, i⟩ v = { s with p2 := writeBit s.p2 i v } := rfl

/-- A write of a position changes the two port bytes at most. -/
theorem State.writePortBit_eq_with (s : State) (pos : PortBit) (v : Bool) :
    s.writePortBit pos v = { s with p1 := (s.writePortBit pos v).p1, p2 := (s.writePortBit pos v).p2 } := by
  obtain ⟨_ | _, i⟩ := pos <;> rfl

theorem State.readBit_writePortBit_p1 (s : State) (pos : PortBit) (v : Bool) (i : Fin 8) :
    readBit (s.writePortBit pos v).p1 i = if pos = ⟨.port1, i⟩ then v else readBit s.p1 i := by
  obtain ⟨_ | _, j⟩ := pos <;> simp [readBit_writeBit]

theorem State.readBit_writePortBit_p2 (s : State) (pos : PortBit) (v : Bool) (i : Fin 8) :
    readBit (s.writePortBit pos v).p2 i = if pos = ⟨.port2, i⟩ then v else readBit s.p2 i := by
  obtain ⟨_ | _, j⟩ := pos <;> simp [readBit_writeBit]

/-- Of two writes of one position the last wins. -/
theorem State.writePortBit_same (s : State) (pos : PortBit) (v w : Bool) :
    (s.writePortBit pos v).writePortBit pos w = s.writePortBit pos w := by
  obtain ⟨_ | _, i⟩ := pos <;> simp

/-- Writes of different positions commute. -/
theorem State.writePortBit_comm {pos pos' : PortBit} (h : pos ≠ pos') (s : State) (v w : Bool) :
    (s.writePortBit pos v).writePortBit pos' w = (s.writePortBit pos' w).writePortBit pos v :=
  match pos, pos' with
  | ⟨.port1, i⟩, ⟨.port1, j⟩ => by simp [writeBit_comm (show i ≠ j by simpa using h)]
  | ⟨.port2, i⟩, ⟨.port2, j⟩ => by simp [writeBit_comm (show i ≠ j by simpa using h)]
  | ⟨.port1, _⟩, ⟨.port2, _⟩ => rfl
  | ⟨.port2, _⟩, ⟨.port1, _⟩ => rfl

/-! ### Control events (R210, R221) -/

theorem eventLevel_eq (e : Event) (pressed : Bool) :
    eventLevel e pressed = if e = .coin then !pressed else pressed := by
  cases e <;> rfl

theorem exec_decodeEvent (e : Event) (pressed : Bool) : exec (decodeEvent pressed e) = event e pressed := by
  cases e <;> rfl

/-- An event between FRAME commands completes (R210). -/
theorem exec_decodeEvent_of_idle {s : State} (hl : s.status = .live) (hf : s.frame = none) (e : Event)
    (pressed : Bool) : exec (decodeEvent pressed e) s = .next ((s.applyEvent e pressed).returns .nothing) := by
  rw [exec_decodeEvent]
  exact onHost_of_idle hl hf _

theorem State.applyEvent_returns (s : State) (r : Result) (e : Event) (pressed : Bool) :
    (s.returns r).applyEvent e pressed = (s.applyEvent e pressed).returns r := by
  simp only [State.applyEvent, State.returns_params]
  obtain ⟨_ | _, i⟩ := s.params.eventMap.get e <;> rfl

/-- Two events, one after the other, write two positions (R210). -/
theorem State.applyEvent_applyEvent (s : State) (e e' : Event) (x y : Bool) :
    (s.applyEvent e x).applyEvent e' y =
      (s.writePortBit (s.params.eventMap.get e) (eventLevel e x)).writePortBit (s.params.eventMap.get e')
        (eventLevel e' y) := by
  rw [State.applyEvent, State.applyEvent_params]
  rfl

/-- The last event of a name wins (R221). -/
theorem State.applyEvent_same (s : State) (e : Event) (x y : Bool) :
    (s.applyEvent e x).applyEvent e y = s.applyEvent e y := by
  rw [State.applyEvent_applyEvent]
  exact State.writePortBit_same ..

/-- EVENT_MAP is injective (R10). -/
theorem EventMap.get_ne {p : Params} (hp : p.wf) {e e' : Event} (h : e ≠ e') :
    p.eventMap.get e ≠ p.eventMap.get e' := by
  obtain ⟨-, hinj, -⟩ := hp
  exact fun hpos => h (List.inj_on_of_nodup_map hinj (Event.mem_all e) (Event.mem_all e') hpos)

/-- Events of different names commute (R221). -/
theorem State.applyEvent_comm {s : State} (hp : s.params.wf) {e e' : Event} (h : e ≠ e') (x y : Bool) :
    (s.applyEvent e x).applyEvent e' y = (s.applyEvent e' y).applyEvent e x := by
  rw [State.applyEvent_applyEvent, State.applyEvent_applyEvent]
  exact State.writePortBit_comm (EventMap.get_ne hp h) ..

/-- Settles O29: the event's write of its position, read bit by bit. -/
theorem eventWritesItsBit : Obligations.EventWritesItsBit := by
  intro s e pressed hl hf
  refine ⟨(s.applyEvent e pressed).p1, (s.applyEvent e pressed).p2, ?_, fun i => ?_, fun i => ?_⟩
  · rw [exec_decodeEvent_of_idle hl hf, State.applyEvent, State.writePortBit_eq_with]
    rfl
  · rw [← eventLevel_eq]
    exact State.readBit_writePortBit_p1 ..
  · rw [← eventLevel_eq]
    exact State.readBit_writePortBit_p2 ..

/-- Settles O32: the laws of `State.applyEvent`; no event has a configuration bit. -/
theorem eventLaws : Obligations.EventLaws := by
  intro s e e' x y hl hf hp
  have hexec (e : Event) (x : Bool) := exec_decodeEvent_of_idle hl hf e x
  have hthen (e e' : Event) (x y : Bool) : exec (decodeEvent y e') ((s.applyEvent e x).returns .nothing) =
      .next (((s.applyEvent e x).applyEvent e' y).returns .nothing) := by
    rw [exec_decodeEvent_of_idle (by simpa using hl) (by simpa using hf), State.applyEvent_returns,
      State.returns_returns]
  refine ⟨_, hexec e x, ?_, ?_, fun i hi => ?_, fun hne => ⟨_, hexec e' y, ?_⟩⟩
  · rw [hthen, State.applyEvent_same]
  · rw [hthen, hexec, State.applyEvent_same]
  · exact State.readBit_applyEvent_p2 (Params.configBit_not_event hp hi) e x
  · rw [hthen, hthen, State.applyEvent_comm hp hne]

/-- An event whose position is in P1 (R210). -/
theorem event_port1 {s : State} {e : Event} {i : Fin 8} (hl : s.status = .live) (hf : s.frame = none)
    (hpos : s.params.eventMap.get e = ⟨.port1, i⟩) (pressed : Bool) :
    event e pressed s = .next { s with
      p1 := writeBit s.p1 i (eventLevel e pressed), result := .nothing, constructing := false } := by
  rw [event, onHost_of_idle hl hf, State.applyEvent, hpos]
  rfl

/-- An event whose position is in P2 (R210). -/
theorem event_port2 {s : State} {e : Event} {i : Fin 8} (hl : s.status = .live) (hf : s.frame = none)
    (hpos : s.params.eventMap.get e = ⟨.port2, i⟩) (pressed : Bool) :
    event e pressed s = .next { s with
      p2 := writeBit s.p2 i (eventLevel e pressed), result := .nothing, constructing := false } := by
  rw [event, onHost_of_idle hl hf, State.applyEvent, hpos]
  rfl

/-- Settles O30: every admissible EVENT_MAP has Coin at bit 0 of P1, and its level is inverted. -/
theorem coinClearsBitZeroWhenPressed : Obligations.CoinClearsBitZeroWhenPressed := by
  intro s hl hf hp
  obtain ⟨-, -, hcoin, -⟩ := hp
  have hpos : s.params.eventMap.get .coin = ⟨.port1, 0⟩ := hcoin
  exact ⟨event_port1 hl hf hpos true, event_port1 hl hf hpos false⟩

/-- Settles O31: each event at the position of the default EVENT_MAP (log 2). -/
theorem defaultEventBits : Obligations.DefaultEventBits := by
  intro s hl hf hmap
  have hport1 (e : Event) {i : Fin 8} (he : EventMap.default.get e = ⟨.port1, i⟩) (pressed : Bool) :=
    event_port1 hl hf (hmap ▸ he) pressed
  have hport2 (e : Event) {i : Fin 8} (he : EventMap.default.get e = ⟨.port2, i⟩) (pressed : Bool) :=
    event_port2 hl hf (hmap ▸ he) pressed
  simp only [List.mem_cons, List.not_mem_nil, or_false, Prod.mk.injEq]
  constructor
  · rintro i m (⟨rfl, rfl⟩ | ⟨rfl, rfl⟩ | ⟨rfl, rfl⟩ | ⟨rfl, rfl⟩ | ⟨rfl, rfl⟩)
    exacts [⟨hport1 .p2Start rfl true, hport1 .p2Start rfl false⟩,
      ⟨hport1 .p1Start rfl true, hport1 .p1Start rfl false⟩,
      ⟨hport1 .p1Shoot rfl true, hport1 .p1Shoot rfl false⟩,
      ⟨hport1 .p1Left rfl true, hport1 .p1Left rfl false⟩,
      ⟨hport1 .p1Right rfl true, hport1 .p1Right rfl false⟩]
  · rintro i m (⟨rfl, rfl⟩ | ⟨rfl, rfl⟩ | ⟨rfl, rfl⟩ | ⟨rfl, rfl⟩)
    exacts [⟨hport2 .tilt rfl true, hport2 .tilt rfl false⟩,
      ⟨hport2 .p2Shoot rfl true, hport2 .p2Shoot rfl false⟩,
      ⟨hport2 .p2Left rfl true, hport2 .p2Left rfl false⟩,
      ⟨hport2 .p2Right rfl true, hport2 .p2Right rfl false⟩]

/-! ### Port input and output (R190 to R205) -/

/-- Settles O23: each row answers its byte. -/
theorem portInputsReturnTheirByte : Obligations.PortInputsReturnTheirByte := by
  refine fun s hl => ⟨onLive_of_live hl _, onLive_of_live hl _, ?_⟩
  rintro i (rfl | ⟨_, rfl⟩ | ⟨_, rfl⟩ | ⟨_, rfl⟩ | ⟨_, rfl⟩ | ⟨_, rfl⟩ | ⟨_, rfl⟩)
  all_goals exact onLive_of_live hl _

/-- Settles O25: each row is an output whose work is nothing. -/
theorem discardedOutputsChangeNothing : Obligations.DiscardedOutputsChangeNothing := by
  rintro s hl d i (rfl | rfl | rfl | ⟨_, rfl⟩ | ⟨_, rfl⟩ | ⟨_, rfl⟩ | ⟨_, rfl⟩ | ⟨_, rfl⟩ | ⟨_, rfl⟩ | ⟨_, rfl⟩)
  all_goals exact onLive_of_live hl _

/-- IN by the number of its port id (R190). -/
theorem State.portIn_eq (s : State) (port : PortId) :
    s.portIn port = if port.toNat = 1 then s.p1 else if port.toNat = 2 then s.p2
      else if port.toNat = 3 then s.srRead else 0xFF := by
  simp only [State.portIn, ← BitVec.toNat_inj]
  rfl

/-- IN by its port id (R190): the row that decodes returns the byte of `State.portIn`. -/
theorem exec_of_decode_ioIn {p : Params} {port : PortId} {i : Instr} (hd : decode p (.ioIn port) = .ok i)
    (s : State) : exec i s = input (s.portIn port) s := by
  cases (decode_ioIn p port).symm.trans hd
  rw [State.portIn_eq]
  repeat' refine iteInduction (motive := (exec · s = _)) (fun _ => ?_) fun _ => ?_
  all_goals
    simp (disch := omega) only [if_pos, if_neg]
    rfl

/-- OUT by its port id (R200), for any output ids: the row that decodes does the work of `State.portOut`. -/
theorem exec_of_decode_ioOut {s : State} {port : PortId} {v : Byte} {i : Instr}
    (hd : decode s.params (.ioOut port v) = .ok i) : exec i s = output s (s.portOut port v) := by
  cases (decode_ioOut s.params port v).symm.trans hd
  unfold State.portOut
  repeat' refine iteInduction (motive := (exec · s = _)) (fun _ => ?_) fun _ => ?_
  all_goals
    simp (disch := assumption) only [if_pos, if_neg]
    rfl

/-- Settles O24: the row of the port id returns what R190 says. -/
theorem decodedInputFollowsThePortId : Obligations.DecodedInputFollowsThePortId := by
  intro s port hl
  obtain ⟨i, hd, -⟩ := ioIn_has_row s.params port
  exact ⟨i, hd, (exec_of_decode_ioIn hd s).trans (onLive_of_live hl _)⟩

/-- Settles O26: the row of the port id does what R200 says; the two shift ids differ. -/
theorem decodedOutputFollowsThePortId : Obligations.DecodedOutputFollowsThePortId := by
  intro s port v hl hp
  obtain ⟨i, hd, -⟩ := ioOut_has_row s.params port v
  obtain ⟨hdata, -⟩ := Laws.RoundTrip.ids_ne hp
  refine ⟨i, hd, ?_⟩
  rw [exec_of_decode_ioOut hd, output, onLive_of_live hl, State.portOut]
  refine ⟨fun h => ?_, fun h => ?_, fun hoffset hdata => ?_⟩
  · rw [if_pos h]
  · rw [if_neg (h ▸ hdata), if_pos h]
  · rw [if_neg hoffset, if_neg hdata]

/-! ### Straps and derived readers (R230 to R235) -/

/-- No two of the four configuration bits of P2 are the same (R10, R28). -/
theorem Params.configBits_ne {p : Params} (hp : p.wf) :
    (p.p2LivesLsb.castSucc ≠ p.p2BonusBit ∧ p.p2LivesLsb.succ ≠ p.p2BonusBit) ∧
    (p.p2LivesLsb.castSucc ≠ p.p2CoininfoBit ∧ p.p2LivesLsb.succ ≠ p.p2CoininfoBit) ∧
    p.p2CoininfoBit ≠ p.p2BonusBit := by
  obtain ⟨-, -, -, -, -, -, -, -, -, -, -, hnodup, -⟩ := hp
  simp only [Params.configBits, List.nodup_cons, List.mem_cons, List.not_mem_nil, or_false, not_or] at hnodup
  obtain ⟨⟨-, hb, hc⟩, ⟨hb', hc'⟩, hbc, -⟩ := hnodup
  exact ⟨⟨hb, hb'⟩, ⟨hc, hc'⟩, Ne.symm hbc⟩

theorem livesOperand_toNat (n : Nat) :
    (livesOperand n).toNat = if n ≤ 3 then 0 else if n ≤ 5 then n - 3 else 3 := by
  unfold livesOperand
  split_ifs with hle hmid
  · rfl
  · rw [BitVec.toNat_ofNat, Nat.mod_eq_of_lt (by omega)]
  · rfl

/-- Settles O33: the strap's write, read bit by bit. -/
theorem strapsWriteTheirField : Obligations.StrapsWriteTheirField := by
  refine fun s hl hc _ => ⟨fun n => ⟨_, onConstruction_of_constructing hl hc _, ?_, fun i hlo hhi => ?_⟩,
    fun b => ⟨_, onConstruction_of_constructing hl hc _, fun i => ?_⟩,
    fun b => ⟨_, onConstruction_of_constructing hl hc _, fun i => ?_⟩⟩
  · rw [livesField_withLives, livesOperand_toNat]
  · rw [readBit_withLives, if_neg (Ne.symm hhi), if_neg (Ne.symm hlo)]
  · simp only [readBit_writeBit, eq_comm]
  · simp only [readBit_writeBit, eq_comm]

/-- Settles O34: both readers answer their number. -/
theorem derivedReadersDecodeTheFields : Obligations.DerivedReadersDecodeTheFields :=
  fun _ hl hf => ⟨onHost_of_idle hl hf _, onHost_of_idle hl hf _⟩

/-- The LIVES field is what its two bits are. -/
theorem livesField_congr {p : Params} {b c : Byte}
    (hlo : readBit b p.p2LivesLsb.castSucc = readBit c p.p2LivesLsb.castSucc)
    (hhi : readBit b p.p2LivesLsb.succ = readBit c p.p2LivesLsb.succ) : livesField p b = livesField p c := by
  obtain ⟨hb0, hb1⟩ := livesField_getLsbD p b
  obtain ⟨hc0, hc1⟩ := livesField_getLsbD p c
  apply BitVec.eq_of_getLsbD_eq
  intro k hk
  obtain rfl | rfl : k = 0 ∨ k = 1 := by omega
  · rw [hb0, hlo, hc0]
  · rw [hb1, hhi, hc1]

/-- The LIVES field is kept by a write of another bit. -/
theorem livesField_writeBit {p : Params} {i : Fin 8} (hlo : p.p2LivesLsb.castSucc ≠ i)
    (hhi : p.p2LivesLsb.succ ≠ i) (p2 : Byte) (v : Bool) :
    livesField p (writeBit p2 i v) = livesField p p2 :=
  livesField_congr (by rw [readBit_writeBit, if_neg hlo.symm]) (by rw [readBit_writeBit, if_neg hhi.symm])

/-- Settles O35: LIVES? reads the field as CFG.LIVES wrote it, which CFG.BONUS keeps. -/
theorem readersInvertTheStraps : Obligations.ReadersInvertTheStraps := by
  intro s s1 s2 n b hf hp hlives hbonus
  obtain ⟨hl, -, ⟨⟩⟩ := onConstruction_next hlives
  obtain ⟨-, -, ⟨⟩⟩ := onConstruction_next hbonus
  obtain ⟨⟨hlo, hhi⟩, -⟩ := Params.configBits_ne hp
  refine ⟨_, _, onHost_of_idle hl hf _, ?_, onHost_of_idle hl hf _, ?_⟩
  · simp only [State.returns_result, State.lives, State.strap_p2, State.strap_params,
      livesField_writeBit hlo hhi, livesField_withLives, livesOperand_toNat]
    congr 1
    split_ifs <;> omega
  · simp only [State.returns_result, State.bonusLife, State.strap_p2, State.strap_params, readBit_writeBit, if_true]

/-- A strap that makes of P2 what `f` says (R230 to R232). -/
def runStrap (f : Params → Byte → Byte) (s : State) : Outcome :=
  onConstruction s (.next (s.strap (f s.params s.p2)))

/-- P2 after CFG.LIVES (R230). -/
def livesStrap (n : Nat) (p : Params) (p2 : Byte) : Byte := withLives p p2 (livesOperand n)

/-- P2 after CFG.COININFO, whose bit is inverted (R231). -/
def coininfoStrap (b : Bool) (p : Params) (p2 : Byte) : Byte := writeBit p2 p.p2CoininfoBit (!b)

/-- P2 after CFG.BONUS (R232). -/
def bonusStrap (b : Bool) (p : Params) (p2 : Byte) : Byte := writeBit p2 p.p2BonusBit b

theorem exec_cfgLives (n : Nat) : exec (.cfgLives n) = runStrap (livesStrap n) := rfl

theorem exec_cfgCoininfo (b : Bool) : exec (.cfgCoininfo b) = runStrap (coininfoStrap b) := rfl

theorem exec_cfgBonus (b : Bool) : exec (.cfgBonus b) = runStrap (bonusStrap b) := rfl

/-- Where one strap answers any other does, and one after it works on the P2 it left (R235). -/
theorem runStrap_after {f : Params → Byte → Byte} {s t : State} (h : runStrap f s = .next t)
    (g : Params → Byte → Byte) :
    runStrap g t = .next (s.strap (g s.params (f s.params s.p2))) ∧
      runStrap g s = .next (s.strap (g s.params s.p2)) := by
  obtain ⟨hl, hc, ⟨⟩⟩ := onConstruction_next h
  exact ⟨onConstruction_of_constructing hl hc _, onConstruction_of_constructing hl hc _⟩

/-- A strap replaces an earlier one if it does so on P2 (R235). -/
theorem runStrap_last_wins {f g : Params → Byte → Byte} {s t : State}
    (hfg : g s.params (f s.params s.p2) = g s.params s.p2) (h : runStrap f s = .next t) :
    runStrap g t = runStrap g s := by
  obtain ⟨ht, hs⟩ := runStrap_after h g
  rw [ht, hs, hfg]

/-- Two straps commute if they do so on P2 (R235). -/
theorem runStrap_comm {f g : Params → Byte → Byte} {s t u : State}
    (hfg : g s.params (f s.params s.p2) = f s.params (g s.params s.p2)) (ht : runStrap f s = .next t)
    (hu : runStrap g s = .next u) : runStrap g t = runStrap f u := by
  rw [(runStrap_after ht g).1, (runStrap_after hu f).1, hfg]

theorem withLives_withLives (p : Params) (p2 : Byte) (f f' : BitVec 2) :
    withLives p (withLives p p2 f) f' = withLives p p2 f' := by
  apply byte_ext
  intro i
  simp only [readBit_withLives]
  split_ifs <;> rfl

theorem writeBit_withLives {p : Params} {i : Fin 8} (hlo : p.p2LivesLsb.castSucc ≠ i)
    (hhi : p.p2LivesLsb.succ ≠ i) (p2 : Byte) (f : BitVec 2) (v : Bool) :
    writeBit (withLives p p2 f) i v = withLives p (writeBit p2 i v) f := by
  simp only [withLives, writeBit_comm hlo, writeBit_comm hhi]

/-- Settles O36: the laws hold of the fields, which do not overlap. -/
theorem strapLaws : Obligations.StrapLaws := by
  intro s t u n n' b b' hp
  obtain ⟨⟨hloBonus, hhiBonus⟩, ⟨hloCoin, hhiCoin⟩, hcoinBonus⟩ := Params.configBits_ne hp
  exact
    ⟨runStrap_last_wins (f := livesStrap n) (g := livesStrap n') (withLives_withLives ..),
     runStrap_last_wins (f := coininfoStrap b) (g := coininfoStrap b') (writeBit_writeBit_same ..),
     runStrap_last_wins (f := bonusStrap b) (g := bonusStrap b') (writeBit_writeBit_same ..),
     runStrap_comm (f := livesStrap n) (g := coininfoStrap b) (writeBit_withLives hloCoin hhiCoin ..),
     runStrap_comm (f := livesStrap n) (g := bonusStrap b) (writeBit_withLives hloBonus hhiBonus ..),
     runStrap_comm (f := coininfoStrap b) (g := bonusStrap b') (writeBit_comm hcoinBonus ..)⟩

/-! ### What writes the port bytes (R236) -/

theorem onLive_keeps_ports {s t u : State} (h : onLive s (.next u) = .next t) (h1 : u.p1 = s.p1)
    (h2 : u.p2 = s.p2) : t.p1 = s.p1 ∧ t.p2 = s.p2 := by
  obtain ⟨-, ⟨⟩⟩ := onLive_next h
  exact ⟨h1, h2⟩

/-- An instruction that is neither a control event nor a strap keeps both port bytes (R236). -/
theorem exec_keeps_ports {i : Instr} {s t : State} (h : exec i s = .next t)
    (hevent : ∀ e pressed, i ≠ decodeEvent pressed e) (hlives : ∀ n, i ≠ .cfgLives n)
    (hcoininfo : ∀ b, i ≠ .cfgCoininfo b) (hbonus : ∀ b, i ≠ .cfgBonus b) : t.p1 = s.p1 ∧ t.p2 = s.p2 := by
  cases i with
  | evtCoin pressed => exact absurd rfl (hevent .coin pressed)
  | evtTilt pressed => exact absurd rfl (hevent .tilt pressed)
  | evtP1Start pressed => exact absurd rfl (hevent .p1Start pressed)
  | evtP1Shoot pressed => exact absurd rfl (hevent .p1Shoot pressed)
  | evtP1Left pressed => exact absurd rfl (hevent .p1Left pressed)
  | evtP1Right pressed => exact absurd rfl (hevent .p1Right pressed)
  | evtP2Start pressed => exact absurd rfl (hevent .p2Start pressed)
  | evtP2Shoot pressed => exact absurd rfl (hevent .p2Shoot pressed)
  | evtP2Left pressed => exact absurd rfl (hevent .p2Left pressed)
  | evtP2Right pressed => exact absurd rfl (hevent .p2Right pressed)
  | cfgLives n => exact absurd rfl (hlives n)
  | cfgCoininfo b => exact absurd rfl (hcoininfo b)
  | cfgBonus b => exact absurd rfl (hbonus b)
  | memrdMirrorA | memrdMirrorB | memwrRom | memwrMirrorA | memwrMirrorB | memwrMirrorC | memwrMirrorD
  | memwrMirrorE | memwrMirrorF =>
    exact onLive_keeps_ports h (State.routerFault_p1 s _) (State.routerFault_p2 s _)
  | livesQ | bonusQ | frame =>
    obtain ⟨-, -, ⟨⟩⟩ := onHost_next h
    exact ⟨rfl, rfl⟩
  | _ => exact onLive_keeps_ports h rfl rfl

/-- A move that is no operation keeps both port bytes: the returns of the engine and its faults (R236). -/
theorem Move.keeps_ports {s t : State} (h : Move s t) (hop : ∀ r rest, s.inputs ≠ .op r :: rest) :
    t.p1 = s.p1 ∧ t.p2 = s.p2 := by
  cases h with
  | executed r rest _ _ hin => exact absurd hin (hop r rest)
  | _ => exact ⟨rfl, rfl⟩

/-- Settles O27: instruction by instruction and move by move. -/
theorem onlyEventsAndStrapsWriteThePorts : Obligations.OnlyEventsAndStrapsWriteThePorts :=
  ⟨fun _ _ _ => exec_keeps_ports, fun _ _ h => (step_next h).2.keeps_ports⟩

end Sys2Proof.Machine
end

section
/-!
PROOFS. The frame scheduler, step by step (R242 to R254): the thresholds and calls of a FRAME, the returns of the
engine, the faults that end a FRAME, and the order of the two interrupts.
-/

namespace Sys2Proof.Machine

/-! ### FRAME and the returns of the engine -/

/-- Settles O39: between FRAME commands the command answers `State.beginFrame`. -/
theorem frameComputesItsThresholds : Obligations.FrameComputesItsThresholds :=
  fun _ hl hf => onHost_of_idle hl hf _

/-- Settles O40: the step that takes the return, with the comparator of each phase. -/
theorem stepReturnCountsAndCompares : Obligations.StepReturnCountsAndCompares := by
  intro s c done mid ph rest hl hf hin
  rw [step_of_stepReturns hin hl hf]
  refine ⟨?_, ?_⟩ <;> rintro rfl
  · rw [← nextCall_toDone (s.cyc + c) done mid]
    rfl
  · rw [← nextCall_toMid (s.cyc + c) done mid]
    rfl

/-- Settles O41: the step that takes the return, with the comparator of the second phase. -/
theorem interruptReturnMovesTheFrameOn : Obligations.InterruptReturnMovesTheFrameOn := by
  intro s done mid ph k rest hl hf hin
  refine ⟨?_, ?_⟩ <;> rintro rfl
  · rw [step_of_midReturns hin hl hf, ← nextCall_toMid s.cyc done mid]
    rfl
  · exact step_of_vblankReturns hin hl hf

/-! ### Faults inside an engine call (R290, R291) -/

/-- Settles O42: the FRAME dies with the error of its outstanding call. -/
theorem engineFaultEndsTheFrame : Obligations.EngineFaultEndsTheFrame := by
  intro s fr x rest hl hf hin
  rw [step_of_engineFaults hin hl hf]
  refine ⟨fun hc => ?_, fun k hc => ?_⟩ <;> rw [hc] <;> rfl

theorem readMirror_fill_eq_routerFault {n : Nat} {s : State} (hl : s.status = .live) {fixed : Addr}
    {free : BitVec n} (hfit : fixed.toNat + 2 ^ n ≤ 2 ^ 16) : readMirror (fill fixed free) s =
      .next (s.routerFault (.unmappedAccess (.read (BitVec.ofNat 16 (fixed.toNat + free.toNat))))) := by
  rw [readMirror, onLive_of_live hl, fill_eq_ofNat _ _ hfit]

theorem writeMirror_fill_eq_routerFault {n : Nat} {s : State} (hl : s.status = .live) {fixed : Addr}
    {free : BitVec n} (d : Byte) (hfit : fixed.toNat + 2 ^ n ≤ 2 ^ 16) : writeMirror (fill fixed free) d s =
      .next (s.routerFault (.unmappedAccess (.write (BitVec.ofNat 16 (fixed.toNat + free.toNat)) d))) := by
  rw [writeMirror, onLive_of_live hl, fill_eq_ofNat _ _ hfit]

/-- The ROM bank begins at address 0, so the free bits are the address. -/
theorem execMemwrRom_eq_routerFault {s : State} (hl : s.status = .live) (a : BitVec 13) (d : Byte) :
    execMemwrRom a d s = .next (s.routerFault (.illegalWrite (BitVec.ofNat 16 a.toNat) d)) := by
  have haddr : fill 0x0000#16 a = BitVec.ofNat 16 a.toNat := by
    rw [fill_eq_ofNat _ _ (by decide), BitVec.toNat_ofNat, Nat.zero_mod, Nat.zero_add]
  rw [← haddr]
  exact onLive_of_live hl _

/-- Settles O43: each of the nine rows answers `State.routerFault`, by which a running FRAME dies with the error
of its outstanding call. -/
theorem routerFaultEndsTheFrame : Obligations.RouterFaultEndsTheFrame := by
  intro s fr i f d hl hf hrow
  have hexec : exec i s = .next (s.routerFault f) := by
    rcases hrow with ⟨a, rfl, rfl⟩ | ⟨a, rfl, rfl⟩ | ⟨a, rfl, rfl⟩ | hwrite
    · exact readMirror_fill_eq_routerFault hl (by decide)
    · exact readMirror_fill_eq_routerFault hl (by decide)
    · exact execMemwrRom_eq_routerFault hl a d
    · rcases hwrite with ⟨a, rfl, rfl⟩ | ⟨a, rfl, rfl⟩ | ⟨a, rfl, rfl⟩ | ⟨a, rfl, rfl⟩ | ⟨a, rfl, rfl⟩ |
        ⟨a, rfl, rfl⟩
      all_goals exact writeMirror_fill_eq_routerFault hl d (by decide)
  rw [hexec, State.routerFault_of_running hf]
  refine ⟨fun hc => ?_, fun k hc => ?_⟩ <;> rw [hc] <;> rfl

/-! ### The order of the interrupts (R254) -/

/-- Of the instructions only a fault ends a FRAME, and the session with it (R290). -/
theorem Effect.dead_of_frame_ended {s t : State} {fr : FrameRun} (h : Effect s t) (hf : s.frame = some fr)
    (ht : t.frame = none) : t.status ≠ .live := by
  cases h with
  | faulted f => simp [State.routerFault_of_running hf]
  | evented _ _ hidle | began hidle => simp [hidle] at hf
  | _ => simp [hf] at ht

/-- A FRAME is in its second phase if it was before, or if Mid has just been delivered (R251). -/
theorem Move.toMid_cases {s t : State} (h : Move s t) {fr : FrameRun} (hf : t.frame = some fr)
    (hp : fr.phase = .toMid) : ∃ fr', s.frame = some fr' ∧
      (fr'.phase = .toMid ∨ fr'.call = .raise .mid ∧ ∃ rest, s.inputs = .raiseReturns :: rest) := by
  cases h with
  | idle => exact ⟨fr, hf, .inl hp⟩
  | executed r rest i t hin hd he hc =>
    rcases (exec_next he).2.frame_cases with hnone | rfl | ⟨hsame, -⟩
    · simp [hnone] at hf
    · cases hf
      nomatch hp
    · exact ⟨fr, hsame.symm.trans hf, .inl hp⟩
  | stepReturned cycles rest ph done mid hin hs =>
    cases hf
    exact ⟨_, hs, .inl hp⟩
  | midReturned rest ph done mid hin hs => exact ⟨_, hs, .inr ⟨rfl, rest, hin⟩⟩
  | vblankReturned | engineFaulted => nomatch hf

/-- A FRAME that ends with the session live ended by the return of VBlank (R250, R254). -/
theorem Move.vblank_of_frame_ended {s t : State} (h : Move s t) {fr : FrameRun} (hs : s.frame = some fr)
    (ht : t.frame = none) (hl : t.status = .live) : fr.call = .raise .vblank ∧ t.frm = s.frm + 1 := by
  cases h with
  | idle => simp [hs] at ht
  | executed r rest i t hin hd he hc => exact absurd hl ((exec_next he).2.dead_of_frame_ended hs ht)
  | stepReturned | midReturned => nomatch ht
  | vblankReturned rest ph done mid hin hf =>
    cases hs.symm.trans hf
    exact ⟨rfl, rfl⟩
  | engineFaulted => nomatch hl

/-- Settles O46: the outstanding call is the comparator's, and what a move does to the phase. -/
theorem interruptsAreRaisedInOrder : Obligations.InterruptsAreRaisedInOrder := by
  intro s t hi hstep
  obtain ⟨-, hmove⟩ := step_next hstep
  refine ⟨fun fr hf hc => ⟨?_, hi.doneThreshold_le hf hc⟩, fun fr hf hc => ⟨?_, hi.midThreshold_le hf hc⟩,
    fun _ => hmove.toMid_cases, fun _ => hmove.vblank_of_frame_ended⟩
  · exact (nextCall_eq_mid ((hi.frame fr hf).call.symm.trans hc)).1
  · exact (nextCall_eq_vblank ((hi.frame fr hf).call.symm.trans hc)).1

end Sys2Proof.Machine
end

section
/-!
PROOFS. R250's procedure over an engine (R250 to R258): how its loops and its two halves return, and that positive
costs make it return.

`LoopRun`, `HalfRun` and `FrameReturn` say once what the procedure can have done when it returned; what holds of
every FRAME is proved by cases on them.
-/

namespace Sys2Proof.Machine

/-! ### The loops -/

section

variable {e : Engine} {thr n : Nat} {h h' : e.Hidden} {s t : State}

/-- At or past its threshold a loop makes no step (R251). -/
theorem loop_of_le (n : Nat) (h : e.Hidden) (hle : thr ≤ s.cyc) : e.loop thr n h s = some (.ok h, s) := by
  cases n <;> rw [Engine.loop, if_neg (Nat.not_lt.2 hle)]

theorem loop_zero_of_lt (h : e.Hidden) (hlt : s.cyc < thr) : e.loop thr 0 h s = none := by
  rw [Engine.loop, if_pos hlt]

/-- Below its threshold a loop goes on from the step that it makes. -/
theorem loop_succ_of_ok {c : Nat} (hlt : s.cyc < thr) (hstep : (e.step h).serve s = (.ok (c, h'), t)) :
    e.loop thr (n + 1) h s = e.loop thr n h' (t.addCycles c) := by
  rw [Engine.loop, if_pos hlt, hstep]

theorem loop_succ_of_error {f : CallFault} (hlt : s.cyc < thr) (hstep : (e.step h).serve s = (.error f, t)) :
    e.loop thr (n + 1) h s = some (.error f, t) := by
  rw [Engine.loop, if_pos hlt, hstep]

/-- The loop returns (R250). -/
inductive LoopRun (e : Engine) (thr : Nat) : e.Hidden → State → Except CallFault e.Hidden × State → Prop where
  | met (h : e.Hidden) (s : State) (hle : thr ≤ s.cyc) : LoopRun e thr h s (.ok h, s)
  | stepped (h h' : e.Hidden) (s t : State) (c : Nat) (out : Except CallFault e.Hidden × State)
    (hlt : s.cyc < thr) (hstep : (e.step h).serve s = (.ok (c, h'), t))
    (hrest : LoopRun e thr h' (t.addCycles c) out) : LoopRun e thr h s out
  | faulted (h : e.Hidden) (s t : State) (f : CallFault) (hlt : s.cyc < thr)
    (hstep : (e.step h).serve s = (.error f, t)) : LoopRun e thr h s (.error f, t)

theorem loopRun_of_loop {out : Except CallFault e.Hidden × State} (hloop : e.loop thr n h s = some out) :
    LoopRun e thr h s out := by
  induction n generalizing h s with
  | zero =>
    rcases Nat.lt_or_ge s.cyc thr with hlt | hle
    · nomatch (loop_zero_of_lt h hlt).symm.trans hloop
    · cases (loop_of_le 0 h hle).symm.trans hloop
      exact .met h s hle
  | succ n ih =>
    rcases Nat.lt_or_ge s.cyc thr with hlt | hle
    · match hstep : (e.step h).serve s with
      | (.ok (c, h'), t) =>
        exact .stepped h h' s t c out hlt hstep (ih ((loop_succ_of_ok hlt hstep).symm.trans hloop))
      | (.error f, t) =>
        cases (loop_succ_of_error hlt hstep).symm.trans hloop
        exact .faulted h s t f hlt hstep
    · cases (loop_of_le (n + 1) h hle).symm.trans hloop
      exact .met h s hle

/-- A loop that returned Ok has met its threshold (R243). -/
theorem LoopRun.le_cyc (hrun : LoopRun e thr h s (.ok h', t)) : thr ≤ t.cyc := by
  generalize hout : (Except.ok h', t) = out at hrun
  induction hrun with
  | met h s hle => cases hout; exact hle
  | stepped _ _ _ _ _ _ _ _ _ ih => exact ih hout
  | faulted => nomatch hout

end

/-! ### What a FRAME keeps to its end -/

/-- What neither the engine nor a loop changes: the parameters, FRM and STATUS. -/
structure KeptByEngine (s t : State) : Prop where
  params : t.params = s.params
  frm : t.frm = s.frm
  status : t.status = s.status

theorem KeptByEngine.trans {s t u : State} (h : KeptByEngine s t) (k : KeptByEngine t u) : KeptByEngine s u :=
  ⟨k.params.trans h.params, k.frm.trans h.frm, k.status.trans h.status⟩

theorem KeptByEngine.addCycles {s t : State} (h : KeptByEngine s t) (c : Nat) : KeptByEngine s (t.addCycles c) :=
  ⟨h.params, h.frm, h.status⟩

theorem keptByEngine_of_serve {ρ : Type} {a : Activity ρ} {s t : State} {r : Except CallFault ρ}
    (h : a.serve s = (r, t)) : KeptByEngine s t ∧ t.cyc = s.cyc := by
  have hsame := serve_same a s
  rw [h] at hsame
  exact ⟨⟨hsame.params, hsame.frm, hsame.status⟩, hsame.cyc⟩

theorem LoopRun.kept {e : Engine} {thr : Nat} {h : e.Hidden} {s : State}
    {out : Except CallFault e.Hidden × State} (hrun : LoopRun e thr h s out) : KeptByEngine s out.2 := by
  induction hrun with
  | met => exact ⟨rfl, rfl, rfl⟩
  | stepped h h' s t c out hlt hstep hrest ih =>
    exact ((keptByEngine_of_serve hstep).1.addCycles c).trans ih
  | faulted h s t f hlt hstep => exact (keptByEngine_of_serve hstep).1

/-! ### The two halves of a FRAME -/

/-- A half of a FRAME returns: the loop of the phase, then the delivery of its interrupt (R250). -/
inductive HalfRun (e : Engine) (ph : Phase) (thr : Nat) (h : e.Hidden) (s : State) :
    Except FatalError e.Hidden × State → Prop where
  | stepFaulted (f : CallFault) (t : State) (hloop : LoopRun e thr h s (.error f, t)) :
    HalfRun e ph thr h s (.error (.ofStep f), t)
  | raiseFaulted (h' : e.Hidden) (f : CallFault) (t u : State) (hloop : LoopRun e thr h s (.ok h', t))
    (hraise : (e.raiseInterrupt ph.interrupt h').serve t = (.error f, u)) :
    HalfRun e ph thr h s (.error (.interruptDeliveryFault ph.interrupt f), u)
  | delivered (h' h'' : e.Hidden) (t u : State) (hloop : LoopRun e thr h s (.ok h', t))
    (hraise : (e.raiseInterrupt ph.interrupt h').serve t = (.ok h'', u)) : HalfRun e ph thr h s (.ok h'', u)

/-- A half that delivered its interrupt has met its threshold and changed nothing that it keeps (R243). -/
theorem HalfRun.kept_of_ok {e : Engine} {ph : Phase} {thr : Nat} {h h' : e.Hidden} {s t : State}
    (hrun : HalfRun e ph thr h s (.ok h', t)) : KeptByEngine s t ∧ thr ≤ t.cyc := by
  cases hrun with
  | delivered h₁ _ u _ hloop hraise =>
    obtain ⟨hkept, hcyc⟩ := keptByEngine_of_serve hraise
    exact ⟨hloop.kept.trans hkept, hcyc ▸ hloop.le_cyc⟩

/-- FRAME returns: the first half fails, or the second, or both deliver their interrupt (R250). -/
inductive FrameReturn (e : Engine) (h : e.Hidden) (s : State) : Option e.Hidden × State → Prop where
  | firstFailed (err : FatalError) (t : State)
    (hfirst : HalfRun e .toDone s.doneThreshold h (s.returns .nothing) (.error err, t)) :
    FrameReturn e h s (none, t.die err)
  | secondFailed (h₁ : e.Hidden) (t₁ : State) (err : FatalError) (t : State)
    (hfirst : HalfRun e .toDone s.doneThreshold h (s.returns .nothing) (.ok h₁, t₁))
    (hsecond : HalfRun e .toMid s.midThreshold h₁ t₁ (.error err, t)) : FrameReturn e h s (none, t.die err)
  | ok (h₁ : e.Hidden) (t₁ : State) (h₂ : e.Hidden) (t : State)
    (hfirst : HalfRun e .toDone s.doneThreshold h (s.returns .nothing) (.ok h₁, t₁))
    (hsecond : HalfRun e .toMid s.midThreshold h₁ t₁ (.ok h₂, t)) : FrameReturn e h s (some h₂, t.finishFrame)

theorem frameReturn_of_frame {e : Engine} {n1 n2 : Nat} {h : e.Hidden} {s : State} {out : Option e.Hidden × State}
    (hframe : e.frame n1 n2 h s = some out) : FrameReturn e h s out := by
  unfold Engine.frame at hframe
  split at hframe
  next => nomatch hframe
  next hloop =>
    cases hframe
    exact .firstFailed _ _ (.stepFaulted _ _ (loopRun_of_loop hloop))
  next hloop =>
    split at hframe
    next hraise =>
      cases hframe
      exact .firstFailed _ _ (.raiseFaulted _ _ _ _ (loopRun_of_loop hloop) hraise)
    next hraise =>
      have hfirst := HalfRun.delivered (ph := .toDone) _ _ _ _ (loopRun_of_loop hloop) hraise
      split at hframe
      next => nomatch hframe
      next hloop =>
        cases hframe
        exact .secondFailed _ _ _ _ hfirst (.stepFaulted _ _ (loopRun_of_loop hloop))
      next hloop =>
        split at hframe
        next hraise =>
          cases hframe
          exact .secondFailed _ _ _ _ hfirst (.raiseFaulted _ _ _ _ (loopRun_of_loop hloop) hraise)
        next hraise =>
          cases hframe
          exact .ok _ _ _ _ hfirst (.delivered _ _ _ _ (loopRun_of_loop hloop) hraise)

/-- `n` FRAME commands have returned Ok: what they leave of the session (R31, R34). -/
structure FramesDone (n : Nat) (s t : State) : Prop where
  frm : t.frm = s.frm + n
  params : t.params = s.params
  status : t.status = s.status
  idle : t.frame = none

theorem FramesDone.succ {n : Nat} {s t u : State} (h : FramesDone 1 s t) (k : FramesDone n t u) :
    FramesDone (n + 1) s u where
  frm := by rw [k.frm, h.frm, Nat.add_assoc, Nat.add_comm 1]
  params := k.params.trans h.params
  status := k.status.trans h.status
  idle := k.idle

/-- CYC is at or past the `mid` of the last FRAME (R39 item 7). -/
def State.PastMid (s : State) : Prop :=
  (s.frm - 1) * s.params.fullFrameBudget + s.params.halfFrameBudget ≤ s.cyc

/-- What a FRAME that returned Ok leaves (R250, R39 items 6 and 7). -/
theorem framesDone_of_frame {e : Engine} {n1 n2 : Nat} {h h' : e.Hidden} {s t : State}
    (hframe : e.frame n1 n2 h s = some (some h', t)) : FramesDone 1 s t ∧ t.PastMid := by
  cases frameReturn_of_frame hframe with
  | ok h₁ t₁ _ u hfirst hsecond =>
    obtain ⟨hkept, hmid⟩ := hsecond.kept_of_ok
    obtain ⟨hparams, hfrm, hstatus⟩ := hfirst.kept_of_ok.1.trans hkept
    refine ⟨⟨congrArg (· + 1) hfrm, hparams, hstatus, rfl⟩, ?_⟩
    rw [State.PastMid, State.finishFrame_frm, State.finishFrame_params, hfrm, hparams]
    exact hmid

/-! ### Steps at no cost (R256) -/

/-- Steps at no cost never carry a loop past its threshold. -/
theorem not_loopRun_of_zero_cost {e : Engine} (hcost : ∀ h u, ∃ h' v, (e.step h).serve u = (.ok (0, h'), v))
    {thr : Nat} {h : e.Hidden} {s : State} {out : Except CallFault e.Hidden × State} (hlt : s.cyc < thr) :
    ¬LoopRun e thr h s out := by
  intro hrun
  induction hrun with
  | met h s hle => exact Nat.not_lt.2 hle hlt
  | stepped h h' s t c out _ hstep _ ih =>
    obtain ⟨h₀, v, hzero⟩ := hcost h s
    cases hstep.symm.trans hzero
    exact ih ((keptByEngine_of_serve hstep).2 ▸ hlt)
  | faulted h s t f _ hstep =>
    obtain ⟨h₀, v, hzero⟩ := hcost h s
    nomatch hstep.symm.trans hzero

/-- Settles O50: the first loop does not return. -/
theorem zeroCostEngineNeverReturns : Obligations.ZeroCostEngineNeverReturns := by
  intro e h s _ _ hcost hlt n1 n2
  have hloop : e.loop s.doneThreshold n1 h (s.returns .nothing) = none := by
    by_contra hsome
    obtain ⟨out, hout⟩ := Option.ne_none_iff_exists'.1 hsome
    exact not_loopRun_of_zero_cost hcost (s := s.returns .nothing) hlt (loopRun_of_loop hout)
  rw [Engine.frame, hloop]

/-! ### Positive costs and no fault (R256, R258) -/

section

variable {e : Engine} (hcost : ∀ h u, ∃ c h' v, (e.step h).serve u = (.ok (c + 1, h'), v))
include hcost

/-- A loop that has at most `d` cycles to go returns within `d` steps, and no step is free. -/
theorem loop_returns_of_positive_cost {thr d : Nat} (h : e.Hidden) {s : State} (hd : thr ≤ s.cyc + d) :
    ∃ n h' t, n ≤ d ∧ s.cyc + n ≤ t.cyc ∧ ∀ m, n ≤ m → e.loop thr m h s = some (.ok h', t) := by
  induction d generalizing h s with
  | zero => exact ⟨0, h, s, Nat.le_refl 0, Nat.le_refl _, fun m _ => loop_of_le m h hd⟩
  | succ d ih =>
    rcases Nat.lt_or_ge s.cyc thr with hlt | hle
    · obtain ⟨c, h₁, u, hstep⟩ := hcost h s
      have hcyc := (keptByEngine_of_serve hstep).2
      have hadd : (u.addCycles (c + 1)).cyc = s.cyc + (c + 1) := congrArg (· + (c + 1)) hcyc
      obtain ⟨n, h', t, hn, ht, hloop⟩ := ih h₁ (s := u.addCycles (c + 1)) (by omega)
      refine ⟨n + 1, h', t, by omega, by omega, fun m hm => ?_⟩
      obtain ⟨m, rfl⟩ := Nat.exists_eq_add_of_le' (Nat.le_of_add_left_le hm)
      rw [loop_succ_of_ok hlt hstep]
      exact hloop m (by omega)
    · exact ⟨0, h, s, Nat.zero_le _, Nat.le_refl _, fun m _ => loop_of_le m h hle⟩

variable (hraise : ∀ k h u, ∃ h' v, (e.raiseInterrupt k h).serve u = (.ok h', v))
include hraise

/-- FRAME returns Ok, its two loops making no more steps together than CYC is short of `mid`. -/
theorem frame_returns_of_positive_cost (h : e.Hidden) (s : State) :
    ∃ n1 n2 h' t, n1 + n2 ≤ s.midThreshold - s.cyc ∧
      ∀ m1 m2, n1 ≤ m1 → n2 ≤ m2 → e.frame m1 m2 h s = some (some h', t) := by
  have hmid : s.midThreshold = s.doneThreshold + s.params.halfFrameBudget := rfl
  obtain ⟨n1, h₁, t₁, hn1, ht₁, hloop₁⟩ := loop_returns_of_positive_cost hcost
    (thr := s.doneThreshold) (d := s.doneThreshold - s.cyc) h (s := s.returns .nothing)
    (by rw [State.returns_cyc]; omega)
  obtain ⟨h₂, t₂, hraise₁⟩ := hraise .mid h₁ t₁
  have hcyc := (keptByEngine_of_serve hraise₁).2
  obtain ⟨n2, h₃, t₃, hn2, -, hloop₂⟩ := loop_returns_of_positive_cost hcost
    (thr := s.midThreshold) (d := s.midThreshold - t₂.cyc) h₂ (s := t₂) (by omega)
  obtain ⟨h₄, t₄, hraise₂⟩ := hraise .vblank h₃ t₃
  rw [State.returns_cyc] at ht₁
  refine ⟨n1, n2, h₄, t₄.finishFrame, by omega, fun m1 m2 hm1 hm2 => ?_⟩
  simp only [Engine.frame, hloop₁ m1 hm1, hraise₁, hloop₂ m2 hm2, hraise₂]

/-- Any number of FRAMEs return Ok, with enough steps looked at; CYC ends at or past the last `mid` if a FRAME was
run or CYC was there before (R258, R39 item 7). -/
theorem frames_return_of_positive_cost (n : Nat) (h : e.Hidden) {s : State} (hf : s.frame = none) :
    ∃ fuel h' t, (∀ m, fuel ≤ m → e.frames m n h s = some (h', t)) ∧ FramesDone n s t ∧
      ((n = 0 → s.PastMid) → t.PastMid) := by
  induction n generalizing h s with
  | zero => exact ⟨0, h, s, fun _ _ => rfl, ⟨rfl, rfl, rfl, hf⟩, fun hpast => hpast rfl⟩
  | succ n ih =>
    obtain ⟨n1, n2, h₁, t₁, -, hframe⟩ := frame_returns_of_positive_cost hcost hraise h s
    obtain ⟨hdone, hpast⟩ := framesDone_of_frame (hframe n1 n2 (Nat.le_refl _) (Nat.le_refl _))
    obtain ⟨fuel, h', t, hframes, hrest, hlast⟩ := ih h₁ hdone.idle
    refine ⟨max (max n1 n2) fuel, h', t, fun m hm => ?_, hdone.succ hrest, fun _ => hlast fun _ => hpast⟩
    rw [Engine.frames, hframe m m (by omega) (by omega)]
    exact hframes m (by omega)

end

/-- Settles O51: the steps of a FRAME are no more than CYC is short of `mid` when it begins. -/
theorem positiveCostFrameReturns : Obligations.PositiveCostFrameReturns := by
  intro e h s _ _ hcost hraise
  obtain ⟨n1, n2, h', t, hle, hframe⟩ := frame_returns_of_positive_cost hcost hraise h s
  have hreturns := hframe n1 n2 (Nat.le_refl _) (Nat.le_refl _)
  refine ⟨⟨n1, n2, h', t, by omega, hreturns⟩, fun hcyc => ⟨n1, n2, h', t, ?_, hreturns⟩⟩
  have hmid : s.midThreshold = s.doneThreshold + s.params.halfFrameBudget := rfl
  have hfull : s.params.fullFrameBudget = 2 * s.params.halfFrameBudget := rfl
  omega

/-- Settles O52: `frames_return_of_positive_cost`, and from reset with the default budget (log 8). -/
theorem thousandFramesReturnOk : Obligations.ThousandFramesReturnOk := by
  intro e hcost hraise
  refine ⟨fun n h s hl hf hn => ?_, fun h => ?_⟩
  · obtain ⟨fuel, h', t, hframes, hdone, hpast⟩ := frames_return_of_positive_cost hcost hraise n h hf
    have hmid : t.PastMid := hpast fun hzero => absurd hzero (Nat.ne_of_gt hn)
    rw [State.PastMid, hdone.params] at hmid
    exact ⟨fuel, h', t, hframes fuel (Nat.le_refl _), hdone.frm, hdone.params, hdone.status.trans hl, hdone.idle,
      hmid⟩
  · obtain ⟨fuel, h', t, hframes, hdone, hpast⟩ :=
      frames_return_of_positive_cost hcost hraise 1000 h (s := State.reset) rfl
    have hfrm : t.frm = 1001 := hdone.frm
    have hmid : t.PastMid := hpast nofun
    rw [State.PastMid, hdone.params, hfrm] at hmid
    exact ⟨fuel, h', t, hframes fuel (Nat.le_refl _), hfrm, hmid⟩

end Sys2Proof.Machine
end

section
/-!
PROOFS. The engine as an argument: the interleaved machine runs R250's procedure (R33, R245, R247).

`State.calling` is the machine's state inside an engine call, where the procedure has a state and a position in
its text. Each part of the procedure, a transaction, a call, a loop and a delivery, has its moves, and the moves of
a FRAME are those of its parts in order.
-/

namespace Sys2Proof.Machine

/-! ### Runs on moves of their own -/

/-- Some moves lead the machine from one state to another, any moves after them still waiting. What waits in the
two states themselves is of no account. -/
def State.LeadsTo (s t : State) : Prop :=
  ∃ (moves : List Input) (n : Nat), ∀ rest : List Input,
    Sys2Proof.core.run n { s with inputs := moves ++ rest } = .next { t with inputs := rest }

namespace State.LeadsTo

variable {s t u : State}

theorem refl (s : State) : s.LeadsTo s := ⟨[], 0, fun _ => rfl⟩

theorem trans (h : s.LeadsTo t) (k : t.LeadsTo u) : s.LeadsTo u := by
  obtain ⟨ms, m, hm⟩ := h
  obtain ⟨ns, n, hn⟩ := k
  refine ⟨ms ++ ns, m + n, fun rest => ?_⟩
  rw [List.append_assoc, run_add (hm (ns ++ rest)), hn rest]

theorem of_step {m : Input}
    (h : ∀ rest, step { s with inputs := m :: rest } = .next { t with inputs := rest }) : s.LeadsTo t :=
  ⟨[m], 1, fun rest => run_succ (M := Sys2Proof.core) (h rest) 0⟩

/-- A request that may be issued leads to what its instruction answers (R297). -/
theorem of_request {r : Request} (hl : s.status = .live) (hf : s.frame ≠ none)
    (h : ∀ rest, ∃ i, decode s.params r = .ok i ∧
      exec i { s with inputs := rest } = .next { t with inputs := rest }) : s.LeadsTo t := by
  refine of_step (m := .op r) fun rest => ?_
  obtain ⟨i, hd, hexec⟩ := h rest
  exact (step_of_op (s := { s with inputs := .op r :: rest }) rfl hd hl fun _ => hf).trans hexec

end State.LeadsTo

/-! ### Transactions (R140, R141, R190, R200) -/

/-- What MEMRD answers: its byte, or its fault (R140). -/
def State.answerRead (s : State) : Except RouterFault Byte → State
  | .ok b => s.returns (.byte b)
  | .error f => s.routerFault f

/-- What MEMWR answers: Ok in the state that it made, or its fault (R141). -/
def State.answerWrite (s : State) : Except RouterFault State → State
  | .ok t => t.returns .ok
  | .error f => s.routerFault f

/-- A MEMRD request has an instruction, which does what `State.memRead` says; the formats after it in the same
way. -/
theorem exec_memRd {s : State} (hl : s.status = .live) (addr : Addr) :
    ∃ i, decode s.params (.memRd addr) = .ok i ∧ exec i s = .next (s.answerRead (s.memRead addr)) := by
  obtain ⟨i, hd, hexec⟩ := decodedReadFollowsTheAddressMap s addr hl
  refine ⟨i, hd, hexec.trans ?_⟩
  unfold State.memRead
  split_ifs <;> rfl

theorem exec_memWr {s : State} (hl : s.status = .live) (addr : Addr) (v : Byte) :
    ∃ i, decode s.params (.memWr addr v) = .ok i ∧ exec i s = .next (s.answerWrite (s.memWrite addr v)) := by
  obtain ⟨i, hd, hexec⟩ := decodedWriteFollowsTheAddressMap s addr v hl
  refine ⟨i, hd, hexec.trans ?_⟩
  unfold State.memWrite windowBase windowEnd
  split_ifs <;> rfl

theorem exec_ioIn {s : State} (hl : s.status = .live) (port : PortId) :
    ∃ i, decode s.params (.ioIn port) = .ok i ∧ exec i s = .next (s.returns (.byte (s.portIn port))) :=
  decodedInputFollowsThePortId s port hl

theorem exec_ioOut {s : State} (hl : s.status = .live) (port : PortId) (v : Byte) :
    ∃ i, decode s.params (.ioOut port v) = .ok i ∧ exec i s = .next ((s.portOut port v).returns .nothing) := by
  obtain ⟨i, hd, -⟩ := ioOut_has_row s.params port v
  exact ⟨i, hd, (exec_of_decode_ioOut hd).trans (onLive_of_live hl _)⟩

/-! ### Inside an engine call -/

/-- The machine inside a FRAME, where the procedure is at `s`: a call is outstanding, and the last transaction
returned `r`. -/
def State.calling (s : State) (fr : FrameRun) (r : Result) : State :=
  { s with frame := some fr, result := r, constructing := false }

section

variable {s : State} (hl : s.status = .live) (fr : FrameRun) (r : Result)
include hl

/-- A MEMRD of the engine: its byte goes back to the engine, its fault ends the FRAME (R140, R247). -/
theorem State.calling_leadsTo_memRead (addr : Addr) :
    (s.calling fr r).LeadsTo ((s.calling fr r).answerRead (s.memRead addr)) := by
  refine .of_request (r := .memRd addr) hl nofun fun rest => ?_
  obtain ⟨i, hd, hexec⟩ := exec_memRd (s := { s.calling fr r with inputs := rest }) hl addr
  refine ⟨i, hd, hexec.trans ?_⟩
  change Host.Outcome.next (State.answerRead _ (s.memRead addr)) = _
  cases s.memRead addr <;> rfl

omit hl in
/-- MEMWR sees and changes memory alone (R141). -/
theorem State.memWrite_calling (ins : List Input) (addr : Addr) (v : Byte) :
    State.memWrite { s.calling fr r with inputs := ins } addr v =
      (s.memWrite addr v).map fun t => { t.calling fr r with inputs := ins } := by
  unfold State.memWrite
  split_ifs <;> rfl

/-- A MEMWR of the engine (R141, R247). -/
theorem State.calling_leadsTo_memWrite (addr : Addr) (v : Byte) :
    (s.calling fr r).LeadsTo ((s.calling fr r).answerWrite ((s.memWrite addr v).map (·.calling fr r))) := by
  refine .of_request (r := .memWr addr v) hl nofun fun rest => ?_
  obtain ⟨i, hd, hexec⟩ := exec_memWr (s := { s.calling fr r with inputs := rest }) hl addr v
  refine ⟨i, hd, hexec.trans ?_⟩
  rw [State.memWrite_calling]
  cases s.memWrite addr v <;> rfl

/-- An IN of the engine (R190). -/
theorem State.calling_leadsTo_portIn (port : PortId) :
    (s.calling fr r).LeadsTo (s.calling fr (.byte (s.portIn port))) :=
  .of_request (r := .ioIn port) hl nofun fun rest =>
    exec_ioIn (s := { s.calling fr r with inputs := rest }) hl port

omit hl in
/-- OUT sees the parameters and the shift register alone (R200). -/
theorem State.portOut_calling (ins : List Input) (port : PortId) (v : Byte) :
    State.portOut { s.calling fr r with inputs := ins } port v =
      { (s.portOut port v).calling fr r with inputs := ins } := by
  unfold State.portOut
  change (if port = s.params.outShiftOffset then _ else if port = s.params.outShiftData then _ else _) = _
  split_ifs <;> rfl

/-- An OUT of the engine (R200). -/
theorem State.calling_leadsTo_portOut (port : PortId) (v : Byte) :
    (s.calling fr r).LeadsTo ((s.portOut port v).calling fr .nothing) := by
  refine .of_request (r := .ioOut port v) hl nofun fun rest => ?_
  obtain ⟨i, hd, hexec⟩ := exec_ioOut (s := { s.calling fr r with inputs := rest }) hl port v
  refine ⟨i, hd, hexec.trans ?_⟩
  rw [State.portOut_calling]
  rfl

/-- A fault of the engine's own ends the FRAME (R250, R284). -/
theorem State.calling_leadsTo_engineFault (payload : Nat) :
    (s.calling fr r).LeadsTo (s.die (fr.call.error (.engineFault payload))) :=
  .of_step (m := .engineFaults payload) fun _ => step_of_engineFaults rfl hl rfl

end

/-! ### A whole engine call (R245, R247) -/

/-- The machine when a call has been served: the engine has yet to return, or the FRAME ended with its fault. -/
def State.afterCall {ρ : Type} (fr : FrameRun) (r : Result) : Except CallFault ρ × State → State
  | (.ok _, t) => t.calling fr r
  | (.error f, t) => t.die (fr.call.error f)

/-- The transactions of a call lead the machine through it. -/
theorem State.calling_leadsTo_served {ρ : Type} (a : Activity ρ) {s : State} (hl : s.status = .live)
    (fr : FrameRun) (r : Result) :
    ∃ r', (s.calling fr r).LeadsTo (State.afterCall fr r' (a.serve s)) := by
  induction a generalizing s r with
  | memRead addr next ih =>
    have hmove := State.calling_leadsTo_memRead hl fr r addr
    unfold Activity.serve
    split <;> rename_i hread <;> rw [hread] at hmove
    · obtain ⟨r', hrest⟩ := ih _ hl _
      exact ⟨r', hmove.trans hrest⟩
    · exact ⟨r, hmove⟩
  | memWrite addr v next ih =>
    have hmove := State.calling_leadsTo_memWrite hl fr r addr v
    unfold Activity.serve
    split <;> rename_i hwrite <;> rw [hwrite] at hmove
    · obtain ⟨r', hrest⟩ := ih ((memWrite_same hwrite).status.trans hl) _
      exact ⟨r', hmove.trans hrest⟩
    · exact ⟨r, hmove⟩
  | portIn port next ih =>
    obtain ⟨r', hrest⟩ := ih _ hl _
    exact ⟨r', (State.calling_leadsTo_portIn hl fr r port).trans hrest⟩
  | portOut port v next ih =>
    obtain ⟨r', hrest⟩ := ih ((portOut_same s port v).status.trans hl) _
    exact ⟨r', (State.calling_leadsTo_portOut hl fr r port v).trans hrest⟩
  | returns x => exact ⟨r, .refl _⟩
  | fails payload => exact ⟨r, State.calling_leadsTo_engineFault hl fr r payload⟩

/-! ### At the comparator (R243) -/

/-- The machine at the comparator of a phase, its next call made. -/
def State.waiting (s : State) (ph : Phase) (done mid : Nat) : State :=
  s.calling ⟨ph, done, mid, nextCall s.cyc ph done mid⟩ .nothing

/-- FRAME brings the machine to the comparator of the first phase (R250). -/
theorem State.beginFrame_eq_waiting (s : State) :
    s.beginFrame = (s.returns .nothing).waiting .toDone s.doneThreshold s.midThreshold := rfl

/-- Where the delivery of a phase's interrupt brings the machine (R250). -/
def State.delivered (s : State) (ph : Phase) (done mid : Nat) : State :=
  match ph with
  | .toDone => s.waiting .toMid done mid
  | .toMid => s.finishFrame

section

variable {e : Engine} {s : State} {ph : Phase} {done mid : Nat}

theorem State.waiting_of_lt (h : s.cyc < ph.threshold done mid) :
    s.waiting ph done mid = s.calling ⟨ph, done, mid, .step⟩ .nothing := by
  rw [State.waiting, nextCall, if_pos h]

theorem State.waiting_of_le (h : ph.threshold done mid ≤ s.cyc) :
    s.waiting ph done mid = s.calling ⟨ph, done, mid, .raise ph.interrupt⟩ .nothing := by
  rw [State.waiting, nextCall, if_neg (Nat.not_lt.2 h)]

/-- The return of `Step()` brings the machine back to the comparator (R250). -/
theorem State.calling_leadsTo_waiting (hl : s.status = .live) (r : Result) (c : Nat) :
    (s.calling ⟨ph, done, mid, .step⟩ r).LeadsTo ((s.addCycles c).waiting ph done mid) :=
  .of_step (m := .stepReturns c) fun _ => step_of_stepReturns rfl hl rfl

theorem State.calling_leadsTo_delivered (hl : s.status = .live) (r : Result) :
    (s.calling ⟨ph, done, mid, .raise ph.interrupt⟩ r).LeadsTo (s.delivered ph done mid) := by
  refine .of_step (m := .raiseReturns) fun _ => ?_
  cases ph with
  | toDone => exact step_of_midReturns rfl hl rfl
  | toMid => exact step_of_vblankReturns rfl hl rfl

/-- `Step()` below the threshold, up to its return. -/
theorem State.waiting_leadsTo_step (hl : s.status = .live) (hlt : s.cyc < ph.threshold done mid) {ρ : Type}
    (a : Activity ρ) :
    ∃ r, (s.waiting ph done mid).LeadsTo (State.afterCall ⟨ph, done, mid, .step⟩ r (a.serve s)) :=
  State.waiting_of_lt hlt ▸ State.calling_leadsTo_served a hl _ _

/-- The delivery at or past the threshold, up to its return. -/
theorem State.waiting_leadsTo_raise (hl : s.status = .live) (hle : ph.threshold done mid ≤ s.cyc) {ρ : Type}
    (a : Activity ρ) :
    ∃ r, (s.waiting ph done mid).LeadsTo
      (State.afterCall ⟨ph, done, mid, .raise ph.interrupt⟩ r (a.serve s)) :=
  State.waiting_of_le hle ▸ State.calling_leadsTo_served a hl _ _

/-! ### Loops, halves and FRAMEs -/

/-- The machine when a loop has returned. -/
def State.afterLoop (ph : Phase) (done mid : Nat) : Except CallFault e.Hidden × State → State
  | (.ok _, t) => t.waiting ph done mid
  | (.error f, t) => t.die (.ofStep f)

theorem LoopRun.leadsTo {h : e.Hidden} {out : Except CallFault e.Hidden × State}
    (hrun : LoopRun e (ph.threshold done mid) h s out) (hl : s.status = .live) :
    (s.waiting ph done mid).LeadsTo (State.afterLoop ph done mid out) := by
  induction hrun with
  | met => exact .refl _
  | stepped h h' s t c out hlt hstep hrest ih =>
    have hl' : t.status = .live := (keptByEngine_of_serve hstep).1.status.trans hl
    obtain ⟨r, hcall⟩ := State.waiting_leadsTo_step hl hlt (e.step h)
    rw [hstep] at hcall
    exact hcall.trans ((State.calling_leadsTo_waiting hl' r c).trans (ih hl'))
  | faulted h s t f hlt hstep =>
    obtain ⟨r, hcall⟩ := State.waiting_leadsTo_step hl hlt (e.step h)
    rwa [hstep] at hcall

/-- The machine when a half of a FRAME has returned. -/
def State.afterHalf (ph : Phase) (done mid : Nat) : Except FatalError e.Hidden × State → State
  | (.ok _, t) => t.delivered ph done mid
  | (.error err, t) => t.die err

theorem HalfRun.leadsTo {h : e.Hidden} {out : Except FatalError e.Hidden × State}
    (hrun : HalfRun e ph (ph.threshold done mid) h s out) (hl : s.status = .live) :
    (s.waiting ph done mid).LeadsTo (State.afterHalf ph done mid out) := by
  cases hrun with
  | stepFaulted f t hloop => exact hloop.leadsTo hl
  | raiseFaulted h' f t u hloop hraise =>
    obtain ⟨r, hcall⟩ := State.waiting_leadsTo_raise (hloop.kept.status.trans hl) hloop.le_cyc
      (e.raiseInterrupt ph.interrupt h')
    rw [hraise] at hcall
    exact (hloop.leadsTo hl).trans hcall
  | delivered h' h'' t u hloop hraise =>
    have hlt : t.status = .live := hloop.kept.status.trans hl
    have hlu : u.status = .live := (keptByEngine_of_serve hraise).1.status.trans hlt
    obtain ⟨r, hcall⟩ := State.waiting_leadsTo_raise hlt hloop.le_cyc (e.raiseInterrupt ph.interrupt h')
    rw [hraise] at hcall
    exact (hloop.leadsTo hl).trans (hcall.trans (State.calling_leadsTo_delivered hlu r))

theorem FrameReturn.leadsTo {h : e.Hidden} {out : Option e.Hidden × State} (hrun : FrameReturn e h s out)
    (hl : s.status = .live) : s.beginFrame.LeadsTo out.2 := by
  rw [State.beginFrame_eq_waiting]
  cases hrun with
  | firstFailed err t hfirst => exact hfirst.leadsTo (mid := s.midThreshold) hl
  | secondFailed h₁ t₁ _ t hfirst hsecond | ok h₁ t₁ _ t hfirst hsecond =>
    have hl₁ : t₁.status = .live := hfirst.kept_of_ok.1.status.trans hl
    exact (hfirst.leadsTo hl).trans (hsecond.leadsTo (done := s.doneThreshold) hl₁)

end

/-- The step that takes the FRAME command, between FRAME commands (R250). -/
theorem step_frame {s : State} (hl : s.status = .live) (hf : s.frame = none) (ins : List Input) :
    step { s with inputs := .op (.cmd .frame) :: ins } = .next { s.beginFrame with inputs := ins } :=
  (step_of_op (s := { s with inputs := .op (.cmd .frame) :: ins }) (i := .frame) rfl rfl hl nofun).trans
    (onHost_of_idle (s := { s with inputs := ins }) hl hf _)

/-- Settles O49: the step of FRAME, then the moves of the halves. -/
theorem machineRunsEveryEngine : Obligations.MachineRunsEveryEngine := by
  intro e n1 n2 h s t h' hl hf hframe
  obtain ⟨moves, n, hrun⟩ := (frameReturn_of_frame hframe).leadsTo hl
  refine ⟨moves, n + 1, fun rest => (run_succ ?_ n).trans (hrun rest)⟩
  exact step_frame hl hf (moves ++ rest)

end Sys2Proof.Machine
end

section
/-!
PROOFS. The dead session (R293): nothing has a meaning there, and a state at rest stays as it is.

Each guard of a move, of the host, of a strap or of the engine, asks first for a live session (`onLive`), so each
refuses a dead one by the same name.
-/

namespace Sys2Proof.Machine

variable {s : State} {err : FatalError}

theorem onHost_of_dead (h : s.status = .dead err) (o : Outcome) : onHost s o = .refused .deadSession :=
  onLive_of_dead h _

theorem onConstruction_of_dead (h : s.status = .dead err) (o : Outcome) :
    onConstruction s o = .refused .deadSession :=
  onLive_of_dead h _

/-- Every instruction, by the guard of its meaning: the host's moves, the straps, the engine's transactions. -/
theorem exec_of_dead (h : s.status = .dead err) (i : Instr) : exec i s = .refused .deadSession := by
  cases i with
  | evtCoin | evtTilt | evtP1Start | evtP1Shoot | evtP1Left | evtP1Right | evtP2Start | evtP2Shoot
  | evtP2Left | evtP2Right | livesQ | bonusQ | frame => exact onHost_of_dead h _
  | cfgLives | cfgCoininfo | cfgBonus => exact onConstruction_of_dead h _
  | _ => exact onLive_of_dead h _

/-- Every waiting move: a request has its instruction (R108), and a return of the engine its guard. -/
theorem step_of_dead (h : s.status = .dead err) (hin : s.inputs ≠ []) : step s = .refused .deadSession := by
  obtain ⟨m, rest, hm⟩ := List.exists_cons_of_ne_nil hin
  have hdrop : s.dropInput.status = .dead err := h
  unfold step
  cases m with
  | op r =>
    obtain ⟨i, hd, -⟩ := everyRequestHasItsRow s.params r
    simp only [hm, hd, exec_of_dead hdrop, issue_of_dead hdrop]
  | stepReturns | raiseReturns | engineFaults =>
    simp only [hm]
    exact onLive_of_dead hdrop _

/-- Settles O47: a move that waits is refused, and with none waiting the step is the idle one. -/
theorem deadSessionRefusesEverything : Obligations.DeadSessionRefusesEverything := by
  intro s err h
  refine ⟨exec_of_dead h, step_of_dead h, fun t ht => ?_⟩
  by_cases hin : s.inputs = []
  · rw [step_of_nil hin] at ht
    cases ht
    rfl
  · rw [step_of_dead h hin] at ht
    nomatch ht

end Sys2Proof.Machine
end

section
/-!
PROOFS. Reset and hazards (R321 to R332): what makes no session, what a new session inherits, what the host sees of
the frame buffer, that a running FRAME keeps the host and its inputs still, and that a program that sets the shift
register up needs no reset value of it.
-/

namespace Sys2Proof.Machine

/-! ### Construction and the frame buffer -/

/-- Settles O2: a session is constructed of arguments of the right sizes only. -/
theorem constructionRefusesWrongSizes : Obligations.ConstructionRefusesWrongSizes := by
  intro p seg0 seg1 seg2 seg3 vram hsizes
  refine Option.eq_none_iff_forall_ne_some.2 fun s hs => hsizes ?_
  obtain ⟨⟨-, hlengths⟩, -⟩ := State.construct_eq_some_iff.1 hs
  exact hlengths

/-- Index `i` of the flat view is element `i` of the video bank (R23, R332). -/
theorem State.vram_getElem? (s : State) {i : Nat} (hi : i < 7168) :
    s.vram[i]? = some (s.bankByte .videoFrame i) := by
  rw [State.vram, List.getElem?_map, List.getElem?_range (show i < Bank.videoFrame.size from hi), Option.map_some]

/-- The flat view depends on the bytes of the video bank alone. -/
theorem State.vram_congr {s t : State}
    (h : ∀ i, i < 7168 → s.bankByte .videoFrame i = t.bankByte .videoFrame i) : s.vram = t.vram :=
  List.map_congr_left fun i hi => h i (List.mem_range.1 hi)

/-- Settles O5: between FRAME commands the view is `State.vram`, during one there is none. -/
theorem frameBufferViewsTheVideoBank : Obligations.FrameBufferViewsTheVideoBank := fun s =>
  ⟨fun hf => ⟨s.vram, State.frameBuffer_of_idle hf, s.vram_length, fun _ hi => s.vram_getElem? hi⟩,
    fun _ hf => State.frameBuffer_of_running hf⟩

/-! ### A new session on an old buffer (R321) -/

/-- A new session is a construction with the bytes of the old buffer, between FRAME commands. -/
theorem State.newSession_eq_some_iff {old t : State} {p : Params} {seg0 seg1 seg2 seg3 : List Byte} :
    old.newSession p seg0 seg1 seg2 seg3 = some t ↔
      old.frame = none ∧ State.construct p seg0 seg1 seg2 seg3 old.vram = some t := by
  cases hf : old.frame with
  | none => simp [State.newSession, State.frameBuffer_of_idle hf]
  | some fr => simp [State.newSession, State.frameBuffer_of_running hf]

/-- Settles O4: the new session is a construction, whose one argument from the old session is its flat view. -/
theorem newSessionInheritsOnlyTheBuffer : Obligations.NewSessionInheritsOnlyTheBuffer := by
  intro old other p seg0 seg1 seg2 seg3 t h
  obtain ⟨hf, hmake⟩ := State.newSession_eq_some_iff.1 h
  obtain ⟨⟨-, h0, h1, h2, h3, hv⟩, rfl⟩ := State.construct_eq_some_iff.1 hmake
  have hr : (seg0 ++ seg1 ++ seg2 ++ seg3).length = 8192 := by simp [h0, h1, h2, h3]
  refine ⟨hf, fun i hi => ?_, fun i hi => constructed_ram hr hi, rfl, rfl, rfl, rfl, fun hf' hbytes => ?_⟩
  · exact Option.some.inj ((constructed_vram_getElem? hr hv hi).symm.trans (old.vram_getElem? hi))
  · rw [State.newSession_eq_some_iff, State.vram_congr hbytes]
    exact ⟨hf', hmake⟩

/-! ### While a FRAME is in progress (R331) -/

/-- Of all instructions only a control event and a strap write a port byte: the one waits for the FRAME, the other
needs a session under construction (R235, R236). -/
theorem Effect.keeps_ports_of_running {s t : State} (h : Effect s t) (hf : s.frame ≠ none)
    (hc : s.constructing ≠ true) : t.p1 = s.p1 ∧ t.p2 = s.p2 := by
  cases h with
  | evented e pressed hidle => exact absurd hidle hf
  | strapped b hs hb => exact absurd hs hc
  | faulted f => exact ⟨State.routerFault_p1 s f, State.routerFault_p2 s f⟩
  | _ => exact ⟨rfl, rfl⟩

/-- Settles O28: a returning engine writes no port byte, and neither does an instruction during a FRAME. -/
theorem inputsAreStillDuringAFrame : Obligations.InputsAreStillDuringAFrame := by
  intro s t fr hinv hf h
  have hrunning : s.frame ≠ none := by simp [hf]
  cases (step_next h).2 with
  | executed _ _ _ _ _ _ he =>
    exact (exec_next he).2.keeps_ports_of_running hrunning (hinv.not_constructing_of_running hf)
  | _ => exact ⟨rfl, rfl⟩

/-- Settles O48: the host's moves by their guard, the straps by theirs, the rest by the view it has not. -/
theorem hostWaitsForTheFrame : Obligations.HostWaitsForTheFrame := by
  intro s fr hl hf
  refine ⟨fun e pressed => ?_, onHost_of_running hl hf _, onHost_of_running hl hf _, onHost_of_running hl hf _,
    fun hinv => ?_, State.frameBuffer_of_running hf, fun p seg0 seg1 seg2 seg3 => ?_⟩
  · rw [exec_decodeEvent]
    exact onHost_of_running hl hf _
  · have hover : s.constructing = false := Bool.eq_false_of_not_eq_true (hinv.not_constructing_of_running hf)
    exact ⟨fun _ => onConstruction_of_over hl hover _, fun _ => onConstruction_of_over hl hover _,
      fun _ => onConstruction_of_over hl hover _⟩
  · rw [State.newSession, State.frameBuffer_of_running hf, Option.bind_none]

/-! ### The shift register without its reset value (R324) -/

/-- Two pushes fill the sixteen bits: nothing of the earlier value is left (R170). -/
theorem pushed_pushed_toNat (v : BitVec 16) (b1 b2 : Byte) :
    (pushed (pushed v b1) b2).toNat = b2.toNat * 256 + b1.toNat := by
  rw [pushed_toNat, pushed_toNat]
  omega

/-- Settles O21: the window is read off the two bytes, at the offset that was set. -/
theorem twoPushesDetermineTheShiftRead : Obligations.TwoPushesDetermineTheShiftRead := by
  intro s s1 s2 s3 t o b1 b2 hset hpush1 hpush2 hread
  obtain ⟨-, ⟨⟩⟩ := onLive_next hset
  obtain ⟨-, ⟨⟩⟩ := onLive_next hpush1
  obtain ⟨-, ⟨⟩⟩ := onLive_next hpush2
  obtain ⟨-, ⟨⟩⟩ := onLive_next hread
  refine ⟨window (pushed (pushed s.srValue b1) b2) (offsetOperand o), rfl, ?_⟩
  rw [window_toNat, pushed_pushed_toNat, offsetOperand_toNat]

end Sys2Proof.Machine
end
